-- ==== Sys2Proof/Word.lean ====
section
/-! DEFINITION. The block's value types (00_scope.md R12): bytes and 16-bit words. A Tick, an unbounded natural number
(R12, 10_state.md R38), is a `Nat`; `Tick?`, a tick or `never`, is an `Option Nat`. -/

namespace Sys2Proof

/-- An 8-bit unsigned value (00_scope.md R12); bit 0 is the least significant (R11). -/
abbrev Byte := BitVec 8

/-- A 16-bit unsigned value (00_scope.md R12). -/
abbrev Word16 := BitVec 16

end Sys2Proof
end

