-- ==== Sys2Proof/Config.lean ====
section
/-! DEFINITION. The parameters of 00_scope.md R10 and the values the spec leaves free.

Every parameter of R10, and one of the model's own (log 6), is a field of `Config`, which a build of the model takes as an
argument (`State.powerOn`); every free value is an opaque constant of which nothing can be proved. -/

namespace Sys2Proof

/-- READ_OVERRUN_POLICY (00_scope.md R10, 43_sequencer.md R198): what a read overrun does. -/
inductive OverrunPolicy where
  /-- `Abort`: the transfer is abandoned and the header search starts again. -/
  | abort
  /-- `Continue`: the new byte overwrites the uncollected one and the transfer goes on. -/
  | proceed
deriving DecidableEq, Repr

/-- READ_HEAD_POLICY (00_scope.md R10, 30_encoding.md R114): whether mode 2 is accepted. -/
inductive ReadHeadPolicy where
  /-- `Loop`: mode 2 verifies headers for ever (43_sequencer.md R186). -/
  | loop
  /-- `Refuse`: mode 2 has no meaning in the build (30_encoding.md R114). -/
  | refuse
deriving DecidableEq, Repr

/-- NEGATIVE_WINDOW_POLICY, the model's own parameter (DESIGN CHOICE, log 6): where the cursors stand after a window that ends
before its start, on which 41_pll.md R142 and 10_state.md R35, R38 contradict each other. Only a cell-length write in mid-command
makes such a window. -/
inductive NegativeWindowPolicy where
  /-- `Follow`: at the window's end, as 41_pll.md R142, R144, R145 and 10_state.md R37 say of every completed cell. -/
  | follow
  /-- `Hold`: where they stood, because 10_state.md R35 and R38 say that they never move backward. -/
  | hold
deriving DecidableEq, Repr

/-- The named parameters of 00_scope.md R10, with the defaults the spec chose, and the model's own parameter of log 6. -/
structure Config where
  /-- TICK_HZ, the frequency of the tick counter: OPEN, so without a default; `none` leaves it unstated (log 12). No rule
  depends on it (70_reset_and_hazards.md R347). -/
  tickHz : Option Rat := none
  /-- CELL_UNIT: ticks per unit of the cell-length register. -/
  cellUnit : Nat := 1
  /-- CELL_MASK: which bits of the cell-length register count. -/
  cellMask : Byte := 0xFF#8
  /-- FREQ_THRESHOLD: the frequency nudge fires when the history's size exceeds it. -/
  freqThreshold : Nat := 1
  /-- WBUF_CAP: capacity of the write-flux buffer in transitions. -/
  wbufCap : Nat := 32
  /-- READ_OVERRUN_POLICY. -/
  readOverrun : OverrunPolicy := .abort
  /-- READ_HEAD_POLICY. -/
  readHead : ReadHeadPolicy := .loop
  /-- NDRIVES: number of medium ports. -/
  ndrives : Nat := 2
  /-- NEGATIVE_WINDOW_POLICY, the model's own (log 6): 41_pll.md R142 as written, unless a build states otherwise. -/
  negativeWindow : NegativeWindowPolicy := .follow
deriving DecidableEq, Repr

/-- The parameters at the defaults of 00_scope.md R10, the one of log 6 at its own. -/
def Config.standard : Config := {}

/-- R10's bounds: `TICK_HZ` where stated is positive, `CELL_UNIT` and `WBUF_CAP` are at least 1. -/
def Config.wf (c : Config) : Bool :=
  c.tickHz.all (fun hz => decide (0 < hz)) && decide (1 ≤ c.cellUnit) && decide (1 ≤ c.wbufCap)

/-- The byte the `n`-th reserved read returns: any value (30_encoding.md R112, 93_implementation_defined.md U1, log 11). -/
opaque Config.freeByte : Nat → Byte

/-- The quotient of an integer by a zero period. Only `PLL_GET_NEXT_BIT` performed outside its precondition
`period >= 1` reaches it (41_pll.md R142, R152, log 5). -/
opaque Config.freeQuotient : Int → Int

/-- A medium the model knows nothing of (20_memory.md R74, R77, log 9). Its transitions are a strictly rising sequence of
ticks, finite or not; `externalGap id k` is how many transition-free ticks stand before the `k`-th transition of medium
`id` (counted from the tick after the one before it), or `none` when there is no `k`-th transition. -/
opaque Config.externalGap : Nat → Nat → Option Nat

end Sys2Proof
end

