-- ==== Sys2Proof/Syntax.lean ====
section
/-! DEFINITION. The operations of spec/opcode_table.json, one constructor a row (30_encoding.md R101, R103, R119).

The tick `now` of a BUS or CMD0 operation, of SYNC and of RESET is no operand: it comes from the time port
(20_memory.md R73). -/

namespace Sys2Proof

/-- The three formats of the table: three separate encoding spaces (30_encoding.md R100, R102, R119; log 1). -/
inductive Format where
  /-- A bus access `rw, offset[2:0]` (R100). -/
  | bus
  /-- The byte written to offset 0 (R102). -/
  | cmd0
  /-- An engine operation, numbered by the table's own tag (R119). -/
  | engine
deriving DecidableEq, Repr

/-- The operations of the block. -/
inductive Instr where
  /-- RD_STAT0, 45_bus_ops.md R246. -/
  | rdStat0
  /-- RD_STAT1, R247. -/
  | rdStat1
  /-- RD_RSVD2, R249. -/
  | rdRsvd2
  /-- RD_DATA, R248. -/
  | rdData
  /-- RD_RSVD4, R249: offsets 4 to 7. -/
  | rdRsvd4 (offset : BitVec 3)
  /-- WR_CMD0, R250. -/
  | wrCmd0 (v : Byte)
  /-- WR_CMD1, R251. -/
  | wrCmd1 (v : Byte)
  /-- WR_CMD2, R252. -/
  | wrCmd2 (v : Byte)
  /-- WR_DATA, R253. -/
  | wrData (v : Byte)
  /-- WR_CLK, R254. -/
  | wrClk (v : Byte)
  /-- WR_SECT, R255. -/
  | wrSect (v : Byte)
  /-- WR_TRCK, R256. -/
  | wrTrck (v : Byte)
  /-- WR_CELL, R257. -/
  | wrCell (v : Byte)
  /-- CMD_IDLE, 43_sequencer.md R184; `v` is the whole command byte. -/
  | cmdIdle (v : Byte)
  /-- CMD_FORMAT, R188. -/
  | cmdFormat (v : Byte)
  /-- CMD_WRITE_SECTOR, R185. -/
  | cmdWriteSector (v : Byte)
  /-- CMD_READ_HEAD, R186. -/
  | cmdReadHead (v : Byte)
  /-- CMD_READ_SECTOR, R187. -/
  | cmdReadSector (v : Byte)
  /-- CRC_BIT, 40_crc.md R130. -/
  | crcBit (crc : Word16) (bit : Bool)
  /-- CRC_BYTE, R131. -/
  | crcByte (crc : Word16) (b : Byte)
  /-- CRC_OF_BYTE, R132. -/
  | crcOfByte (b : Byte)
  /-- PLL_SET_CLOCK, 41_pll.md R141. -/
  | pllSetClock (p : Nat)
  /-- PLL_READ_RESET, R140. -/
  | pllReadReset (t : Nat)
  /-- PLL_GET_NEXT_BIT, R142. -/
  | pllGetNextBit (limit : Nat)
  /-- PLL_WRITE_NEXT_BIT, R150. -/
  | pllWriteNextBit (bit : Bool) (limit : Nat)
  /-- CODEC_READ_CELL, 42_codec.md R164. -/
  | codecReadCell (limit : Nat)
  /-- CODEC_WRITE_CELL, R167. -/
  | codecWriteCell (limit : Nat)
  /-- WBUF_START, 44_write_flux.md R231. -/
  | wbufStart (t : Nat)
  /-- WBUF_COMMIT, R233. -/
  | wbufCommit (t : Nat)
  /-- WBUF_STOP, R234. -/
  | wbufStop (t : Nat)
  /-- SYNC, 43_sequencer.md R180. -/
  | sync
  /-- RESET, 70_reset_and_hazards.md R320. -/
  | reset
deriving DecidableEq, Repr

end Sys2Proof
end

