-- ==== Sys2Proof/WellFormed.lean ====
section
/-! DEFINITION. Which terms of `Instr` stand for a row of the table: the checks the operand types do not make. -/

namespace Sys2Proof

/-- A command byte selects a row when its masked bits are the row's match (30_encoding.md R103). -/
def selects (mask want v : Byte) : Bool := v &&& mask == want

/-- Well-formedness: `RD_RSVD4` holds an offset of 4 to 7 (30_encoding.md R101), a CMD0 operation a byte that selects it
(R103). Every other operand may have any value of its type. -/
def Instr.wf : Instr → Bool
  | .rdStat0 | .rdStat1 | .rdRsvd2 | .rdData => true
  | .rdRsvd4 offset => offset.getLsbD 2
  | .wrCmd0 _ | .wrCmd1 _ | .wrCmd2 _ | .wrData _ => true
  | .wrClk _ | .wrSect _ | .wrTrck _ | .wrCell _ => true
  | .cmdIdle v => selects 0x07#8 0x00#8 v
  | .cmdFormat v => selects 0x07#8 0x04#8 v
  | .cmdWriteSector v => selects 0x03#8 0x01#8 v
  | .cmdReadHead v => selects 0x03#8 0x02#8 v
  | .cmdReadSector v => selects 0x03#8 0x03#8 v
  | .crcBit _ _ | .crcByte _ _ | .crcOfByte _ => true
  | .pllSetClock _ | .pllReadReset _ | .pllGetNextBit _ | .pllWriteNextBit _ _ => true
  | .codecReadCell _ | .codecWriteCell _ => true
  | .wbufStart _ | .wbufCommit _ | .wbufStop _ => true
  | .sync | .reset => true

/-- The operations a consumer or the reset port can apply to the block (20_memory.md R73): bus accesses, the commands
they issue, `Sync` and `Reset`. The rest are engine operations, invoked by other rules only (30_encoding.md R119). -/
def Instr.external : Instr → Bool
  | .rdStat0 | .rdStat1 | .rdRsvd2 | .rdData | .rdRsvd4 _ => true
  | .wrCmd0 _ | .wrCmd1 _ | .wrCmd2 _ | .wrData _ => true
  | .wrClk _ | .wrSect _ | .wrTrck _ | .wrCell _ => true
  | .cmdIdle _ | .cmdFormat _ | .cmdWriteSector _ | .cmdReadHead _ | .cmdReadSector _ => true
  | .sync | .reset => true
  | .crcBit _ _ | .crcByte _ _ | .crcOfByte _ => false
  | .pllSetClock _ | .pllReadReset _ | .pllGetNextBit _ | .pllWriteNextBit _ _ => false
  | .codecReadCell _ | .codecWriteCell _ => false
  | .wbufStart _ | .wbufCommit _ | .wbufStop _ => false

end Sys2Proof
end

