-- ==== Sys2Proof/Decode.lean ====
section
/-! DEFINITION. From the bytes of an operation to the operation, total, refusing by name; and the encoder.

An operation is presented as its format and a list of bytes. BUS: the operation word in the low four bits of the first
byte, then the data byte (30_encoding.md R100). CMD0: the command byte (R102). ENGINE: the table's tag (R119), then the
operands in the table's order: a word high byte first, a bit as a byte 0 or 1, a tick as the remaining bytes, high byte
first (log 3). -/

namespace Sys2Proof

/-- Why the bytes of an operation are refused. -/
inductive DecodeError where
  /-- There is no byte. -/
  | empty
  /-- An access to an offset outside 0 to 7: the first byte is no 4-bit operation word (20_memory.md R72). -/
  | offsetOutOfRange
  /-- An access wider than a byte, or bytes after the last operand (20_memory.md R72, 30_encoding.md R116). -/
  | tooWide
  /-- A write without its data byte, or an engine operation without an operand (30_encoding.md R100). -/
  | missingOperand
  /-- A tag that the table's ENGINE rows do not use (30_encoding.md R119). -/
  | unknownTag
  /-- A Bit operand that is neither 0 nor 1 (00_scope.md R12). -/
  | notABit
deriving DecidableEq, Repr

/-- A tick from its bytes, high byte first (log 3). -/
def tickOfBytes (bs : List Byte) : Nat := bs.foldl (fun n b => 256 * n + b.toNat) 0

/-- The bytes of `n`, high byte first, before the bytes `acc`; `fuel >= n` is enough. -/
def bytesOfTickAcc : Nat → Nat → List Byte → List Byte
  | 0, _, acc => acc
  | _ + 1, 0, acc => acc
  | fuel + 1, n + 1, acc => bytesOfTickAcc fuel ((n + 1) / 256) (BitVec.ofNat 8 (n + 1) :: acc)

/-- The bytes of a tick, high byte first, without leading zeros (log 3). -/
def bytesOfTick (n : Nat) : List Byte := bytesOfTickAcc n n []

/-- A Bit operand from its byte. -/
def bitOfByte (b : Byte) : Except DecodeError Bool :=
  if b = 0#8 then .ok false else if b = 1#8 then .ok true else .error .notABit

/-- The byte of a Bit operand. -/
def byteOfBit (b : Bool) : Byte := if b then 1#8 else 0#8

/-- A read of the bus: the data lines carry nothing the block looks at (20_memory.md R73). -/
def decodeRead (i : Instr) (lines : List Byte) : Except DecodeError Instr :=
  if lines.length ≤ 1 then .ok i else .error .tooWide

/-- A write of the bus: one data byte. -/
def decodeWrite (f : Byte → Instr) (lines : List Byte) : Except DecodeError Instr :=
  match lines with
  | [] => .error .missingOperand
  | [v] => .ok (f v)
  | _ :: _ :: _ => .error .tooWide

/-- The sixteen bus operations (30_encoding.md R101), by the low four bits of the operation word. -/
def decodeBusOp (op : BitVec 4) (lines : List Byte) : Except DecodeError Instr :=
  match op.toNat with
  | 0 => decodeRead .rdStat0 lines
  | 1 => decodeRead .rdStat1 lines
  | 2 => decodeRead .rdRsvd2 lines
  | 3 => decodeRead .rdData lines
  | 8 => decodeWrite .wrCmd0 lines
  | 9 => decodeWrite .wrCmd1 lines
  | 10 => decodeWrite .wrCmd2 lines
  | 11 => decodeWrite .wrData lines
  | 12 => decodeWrite .wrClk lines
  | 13 => decodeWrite .wrSect lines
  | 14 => decodeWrite .wrTrck lines
  | 15 => decodeWrite .wrCell lines
  | _ => decodeRead (.rdRsvd4 (op.extractLsb' 0 3)) lines

/-- Format BUS (30_encoding.md R100); a first byte of 16 or more names no offset of the window (20_memory.md R72). -/
def decodeBus (bytes : List Byte) : Except DecodeError Instr :=
  match bytes with
  | [] => .error .empty
  | op :: lines => if op.toNat < 16 then decodeBusOp (op.extractLsb' 0 4) lines else .error .offsetOutOfRange

/-- The command a byte selects (30_encoding.md R103): every value selects exactly one. -/
def commandOf (v : Byte) : Instr :=
  if selects 0x07#8 0x00#8 v then .cmdIdle v
  else if selects 0x07#8 0x04#8 v then .cmdFormat v
  else if selects 0x03#8 0x01#8 v then .cmdWriteSector v
  else if selects 0x03#8 0x02#8 v then .cmdReadHead v
  else .cmdReadSector v

/-- Format CMD0 (30_encoding.md R102). -/
def decodeCmd0 (bytes : List Byte) : Except DecodeError Instr :=
  match bytes with
  | [] => .error .empty
  | [v] => .ok (commandOf v)
  | _ :: _ :: _ => .error .tooWide

/-- An engine operation whose one operand is a tick. -/
def decodeTick (f : Nat → Instr) (operands : List Byte) : Except DecodeError Instr := .ok (f (tickOfBytes operands))

/-- Operands of CRC_BIT: the word, high byte first, and the bit. -/
def decodeCrcBit (operands : List Byte) : Except DecodeError Instr :=
  match operands with
  | [hi, lo, b] => (bitOfByte b).map (.crcBit (hi ++ lo))
  | _ :: _ :: _ :: _ :: _ => .error .tooWide
  | _ => .error .missingOperand

/-- Operands of CRC_BYTE: the word, high byte first, and the byte. -/
def decodeCrcByte (operands : List Byte) : Except DecodeError Instr :=
  match operands with
  | [hi, lo, b] => .ok (.crcByte (hi ++ lo) b)
  | _ :: _ :: _ :: _ :: _ => .error .tooWide
  | _ => .error .missingOperand

/-- Operand of CRC_OF_BYTE. -/
def decodeCrcOfByte (operands : List Byte) : Except DecodeError Instr :=
  match operands with
  | [] => .error .missingOperand
  | [b] => .ok (.crcOfByte b)
  | _ :: _ :: _ => .error .tooWide

/-- Operands of PLL_WRITE_NEXT_BIT: the bit, then the limit. -/
def decodePllWrite (operands : List Byte) : Except DecodeError Instr :=
  match operands with
  | [] => .error .missingOperand
  | b :: limit => (bitOfByte b).map (.pllWriteNextBit · (tickOfBytes limit))

/-- An operation without operands. -/
def decodeBare (i : Instr) (operands : List Byte) : Except DecodeError Instr :=
  match operands with
  | [] => .ok i
  | _ :: _ => .error .tooWide

/-- The fourteen engine operations, by the table's tag (30_encoding.md R119). -/
def decodeTag (tag : Nat) (operands : List Byte) : Except DecodeError Instr :=
  match tag with
  | 0x00 => decodeCrcBit operands
  | 0x01 => decodeCrcByte operands
  | 0x02 => decodeCrcOfByte operands
  | 0x03 => decodeTick .pllSetClock operands
  | 0x04 => decodeTick .pllReadReset operands
  | 0x05 => decodeTick .pllGetNextBit operands
  | 0x06 => decodePllWrite operands
  | 0x07 => decodeTick .codecReadCell operands
  | 0x08 => decodeTick .codecWriteCell operands
  | 0x09 => decodeTick .wbufStart operands
  | 0x0A => decodeTick .wbufCommit operands
  | 0x0B => decodeTick .wbufStop operands
  | 0x0C => decodeBare .sync operands
  | 0x0D => decodeBare .reset operands
  | _ => .error .unknownTag

/-- Format ENGINE. -/
def decodeEngine (bytes : List Byte) : Except DecodeError Instr :=
  match bytes with
  | [] => .error .empty
  | tag :: operands => decodeTag tag.toNat operands

/-- The decoder: total on any bytes. -/
def decode (fmt : Format) (bytes : List Byte) : Except DecodeError Instr :=
  match fmt with
  | .bus => decodeBus bytes
  | .cmd0 => decodeCmd0 bytes
  | .engine => decodeEngine bytes

/-- The encoder: the format and bytes of a well-formed operation (30_encoding.md R101, R103, R119; log 3). -/
def encode (i : Instr) : Format × List Byte :=
  match i with
  | .rdStat0 => (.bus, [0x0#8])
  | .rdStat1 => (.bus, [0x1#8])
  | .rdRsvd2 => (.bus, [0x2#8])
  | .rdData => (.bus, [0x3#8])
  | .rdRsvd4 offset => (.bus, [offset.zeroExtend 8])
  | .wrCmd0 v => (.bus, [0x8#8, v])
  | .wrCmd1 v => (.bus, [0x9#8, v])
  | .wrCmd2 v => (.bus, [0xA#8, v])
  | .wrData v => (.bus, [0xB#8, v])
  | .wrClk v => (.bus, [0xC#8, v])
  | .wrSect v => (.bus, [0xD#8, v])
  | .wrTrck v => (.bus, [0xE#8, v])
  | .wrCell v => (.bus, [0xF#8, v])
  | .cmdIdle v => (.cmd0, [v])
  | .cmdFormat v => (.cmd0, [v])
  | .cmdWriteSector v => (.cmd0, [v])
  | .cmdReadHead v => (.cmd0, [v])
  | .cmdReadSector v => (.cmd0, [v])
  | .crcBit crc bit => (.engine, [0x00#8, crc.extractLsb' 8 8, crc.extractLsb' 0 8, byteOfBit bit])
  | .crcByte crc b => (.engine, [0x01#8, crc.extractLsb' 8 8, crc.extractLsb' 0 8, b])
  | .crcOfByte b => (.engine, [0x02#8, b])
  | .pllSetClock p => (.engine, 0x03#8 :: bytesOfTick p)
  | .pllReadReset t => (.engine, 0x04#8 :: bytesOfTick t)
  | .pllGetNextBit limit => (.engine, 0x05#8 :: bytesOfTick limit)
  | .pllWriteNextBit bit limit => (.engine, 0x06#8 :: byteOfBit bit :: bytesOfTick limit)
  | .codecReadCell limit => (.engine, 0x07#8 :: bytesOfTick limit)
  | .codecWriteCell limit => (.engine, 0x08#8 :: bytesOfTick limit)
  | .wbufStart t => (.engine, 0x09#8 :: bytesOfTick t)
  | .wbufCommit t => (.engine, 0x0A#8 :: bytesOfTick t)
  | .wbufStop t => (.engine, 0x0B#8 :: bytesOfTick t)
  | .sync => (.engine, [0x0C#8])
  | .reset => (.engine, [0x0D#8])

/-- The bytes of a bus access whose operation word is the low byte of `w`: the data byte follows (zero where the table
gives it no bits), and any bits beyond it are an access wider than a byte. -/
def busBytes (w : Nat) : List Byte :=
  if w < 65536 then [BitVec.ofNat 8 w, BitVec.ofNat 8 (w / 256)]
  else [BitVec.ofNat 8 w, BitVec.ofNat 8 (w / 256), BitVec.ofNat 8 (w / 65536)]

/-- The format and bytes a bare table word of `nbits` bits is read in (log 1). A word whose first byte is a bus operation
word (below 16) is a bus access. A single byte of 16 or more is no bus operation and is read as a command byte. -/
def tableWord (nbits w : Nat) : Format × List Byte :=
  if 16 ≤ w ∧ w < 256 ∧ nbits ≤ 8 then (.cmd0, [BitVec.ofNat 8 w]) else (.bus, busBytes w)

/-- The operation the decoder reads from an instruction whose bits are `w`. -/
def decodeTableWord (nbits w : Nat) : Option Instr := (decode (tableWord nbits w).1 (tableWord nbits w).2).toOption

end Sys2Proof
end

