-- ==== Sys2Proof/Machine/State.lean ====
section
/-! DEFINITION. Everything the spec gives the machine, as plain data (10_state.md), and the machine right after reset
(10_state.md R62, 70_reset_and_hazards.md R320 `PowerOn`). -/

namespace Sys2Proof.Machine

/-- The sequencer's twelve states (10_state.md R30). -/
inductive SeqState where
  | idle
  | readWaitHeaderSync
  | readVerifyHeader
  | readSkipGap
  | readWaitSectorSync
  | readVerifySector
  | read
  | writeSkipGap
  | writeSectorSync
  | writeSector
  | writeCrc
  | format
deriving DecidableEq, Repr

/-- Read-type states decode cells from the medium (10_state.md R34). -/
def SeqState.isRead : SeqState → Bool
  | .readWaitHeaderSync | .readVerifyHeader | .readSkipGap | .readWaitSectorSync | .readVerifySector | .read
  | .writeSkipGap => true
  | .idle | .writeSectorSync | .writeSector | .writeCrc | .format => false

/-- Write-type states encode cells to the medium (10_state.md R34). -/
def SeqState.isWrite : SeqState → Bool
  | .writeSectorSync | .writeSector | .writeCrc | .format => true
  | .idle | .readWaitHeaderSync | .readVerifyHeader | .readSkipGap | .readWaitSectorSync | .readVerifySector | .read
  | .writeSkipGap => false

/-- The byte registers of the bus window (10_state.md R20, R21, R40 to R53). -/
structure Regs where
  /-- status0 (R40). -/
  stat0 : Byte
  /-- The read data register (R21). -/
  rdata : Byte
  /-- The written data register and data half of the sync comparator (R20). -/
  wdata : Byte
  /-- command0 (R47). -/
  cmd0 : Byte
  /-- command1 (R48). -/
  cmd1 : Byte
  /-- command2 (R49). -/
  cmd2 : Byte
  /-- The clock half of the sync comparator (R50). -/
  clk : Byte
  /-- The sector-number selector (R51). -/
  sect : Byte
  /-- The track-number selector (R52). -/
  trck : Byte
  /-- The cell-length selector (R53). -/
  cell : Byte
deriving DecidableEq, Repr

/-- The sequencer's position (10_state.md R30, R31). -/
structure Sequencer where
  state : SeqState
  byteCount : BitVec 16
deriving DecidableEq, Repr

/-- The two time cursors (10_state.md R35, R36). -/
structure Cursors where
  lastSync : Nat
  windowStart : Nat
deriving DecidableEq, Repr

/-- The PLL's registers (10_state.md R55, R56). -/
structure Pll where
  period : Nat
  minPeriod : Nat
  maxPeriod : Nat
  adjustBase : Nat
  phaseAdjust : Int
  /-- Signed, saturating (R56). -/
  freqHist : BitVec 8
deriving DecidableEq, Repr

/-- The codec's registers (10_state.md R22 to R24, R32, R33). -/
structure Codec where
  shiftReg : Word16
  dataReg : Byte
  clkReg : Byte
  crc : Word16
  /-- false: the next cell is a clock cell; true: a data cell (R33). -/
  phase : Bool
  /-- Cells since the last byte boundary (R32). -/
  bitCount : Fin 16
deriving DecidableEq, Repr

/-- The transmit registers (10_state.md R57). -/
structure Transmit where
  data : Byte
  clk : Byte
  verb : Bool
  prev : Bool
deriving DecidableEq, Repr

/-- The write-flux buffer (10_state.md R58). -/
structure WriteBuffer where
  /-- `none` when no write is in progress. -/
  start : Option Nat
  ticks : List Nat
deriving DecidableEq, Repr

/-- One `WriteFlux(d, a, e, L)` seen by a medium (20_memory.md R76). -/
structure FluxWrite where
  first : Nat
  stop : Nat
  flux : List Nat
deriving DecidableEq, Repr

/-- What a drive's medium holds (20_memory.md R74, R77). -/
inductive Medium where
  /-- `LinearMedium(S)`, `S` in rising order. -/
  | linear (flux : List Nat)
  /-- `RotatingMedium(REV, S)`, `S` in rising order. -/
  | rotating (rev : Nat) (flux : List Nat)
  /-- A medium of which only the writes made to it are known, newest first; what it held before is the sequence
  `Config.externalGap id` (log 9). -/
  | external (id : Nat) (writes : List FluxWrite)
deriving DecidableEq, Repr

/-- The five status signals of a drive (20_memory.md R73). -/
structure Signals where
  index : Bool
  diskChanged : Bool
  track0 : Bool
  writeProtected : Bool
  ready : Bool
deriving DecidableEq, Repr

/-- A drive as its ports show it (20_memory.md R73): its medium, its signals, and whether its medium port honours
`WriteFlux` (93_implementation_defined.md U17). -/
structure Drive where
  medium : Medium
  accepts : Bool
  signals : Signals
deriving DecidableEq, Repr

/-- The drive-control events (00_scope.md R13). -/
inductive DriveEvent where
  | setSide (b : Bool)
  | setDirection (b : Bool)
  | setMotor (b : Bool)
  | stepPulse
deriving DecidableEq, Repr

/-- A `WriteFlux` call made at the port (44_write_flux.md R233); `drive = none` is a call that reaches nothing. -/
structure FluxCall where
  drive : Option Nat
  first : Nat
  stop : Nat
  flux : List Nat
deriving DecidableEq, Repr

/-- The conditions a rule raises (60_exceptions.md R290). WriteUnderrun is not detected by the block (R294) and an
unsupported command is refused (R295), so neither is recorded (log 16). -/
inductive Condition where
  | protocolMiss
  | crcError
  | readOverrun
deriving DecidableEq, Repr

/-- What the last operation answered: `data_out` of a bus read (20_memory.md R73), or an engine operation's result. -/
inductive Output where
  | nothing
  | data (b : Byte)
  | word (w : Word16)
  | bit (b : Bool)
  | done
  | suspend
deriving DecidableEq, Repr

/-- What the environment brings to a drive's ports with an operation (20_memory.md R73, R84; log 10). -/
inductive DriveInput where
  | signals (v : Signals)
  | medium (m : Medium)
  | accepts (b : Bool)
deriving DecidableEq, Repr

/-- An operation presented at the ports (20_memory.md R73): its format and bytes, the tick it is applied at, and the drive
inputs that hold at that tick, each with its drive's number. -/
structure Request where
  fmt : Format
  bytes : List Byte
  now : Nat
  inputs : List (Nat × DriveInput)
deriving DecidableEq, Repr

/-- The machine. -/
structure State where
  /-- The parameters (00_scope.md R10; log 6 for the one of the model): no step changes them. -/
  cfg : Config
  regs : Regs
  seq : Sequencer
  cur : Cursors
  pll : Pll
  codec : Codec
  tx : Transmit
  wbuf : WriteBuffer
  /-- The drives at the medium ports, number 0 first. -/
  drives : List Drive
  /-- The tick at the time port: the `now` of the operation in hand, and between two operations that of the last one, below
  which the next may not lie (20_memory.md R73, R84). -/
  now : Nat
  /-- The operations presented and not yet performed. -/
  inbox : List Request
  /-- The answer of the last operation. -/
  out : Output
  /-- Trace of drive-control events with the drive each goes to, oldest first. -/
  events : List (Option Nat × DriveEvent)
  /-- Trace of `WriteFlux` calls, oldest first. -/
  fluxCalls : List FluxCall
  /-- Trace of conditions raised, oldest first. -/
  conditions : List Condition
  /-- The MODEL's own field: how many free bytes have been taken (log 11). -/
  freeCount : Nat
deriving DecidableEq, Repr

/-- The block has no fault: it has no exception mechanism and no halted state (60_exceptions.md R290, 10_state.md R64).
No constructor: nothing raises one (safe). -/
inductive Fault where
deriving DecidableEq, Repr

/-- Why the model gives an operation no meaning. -/
inductive Refusal where
  /-- An instruction not reached yet: raised by its arm of exec only; safe. -/
  | notModelled (mnemonic : String)
  /-- Time goes backward: raised by step for an operation whose tick lies before that of the operation before, and by every
  operation with a `now` whose tick lies before `last_sync`, as 70_reset_and_hazards.md R331 says ("refuse"); safe. -/
  | timeBackward
  /-- Mode 2 in a build with READ_HEAD_POLICY = Refuse: raised by WR_CMD0 and CMD_READ_HEAD, as 30_encoding.md R114 says
  ("refused by the model"); safe. -/
  | unsupportedCommand
  /-- The bytes presented are no operation: raised by step, as 20_memory.md R72 says ("refuse") and the decoder names it;
  safe. -/
  | undecodable (e : DecodeError)
deriving DecidableEq, Repr

/-- The reset table of 10_state.md R62: the bus registers. -/
def Regs.reset : Regs :=
  { stat0 := 0x08#8, rdata := 0#8, wdata := 0#8, cmd0 := 0#8, cmd1 := 0#8, cmd2 := 0#8, clk := 0#8, sect := 0#8,
    trck := 0#8, cell := 0#8 }

/-- R62: IDLE, no byte counted. -/
def Sequencer.reset : Sequencer := { state := .idle, byteCount := 0#16 }

/-- R62: no cell length programmed. -/
def Pll.reset : Pll :=
  { period := 0, minPeriod := 0, maxPeriod := 0, adjustBase := 0, phaseAdjust := 0, freqHist := 0#8 }

/-- R62: the codec's registers. -/
def Codec.reset : Codec :=
  { shiftReg := 0#16, dataReg := 0#8, clkReg := 0#8, crc := 0#16, phase := false, bitCount := 0 }

/-- R62: the transmit registers. -/
def Transmit.reset : Transmit := { data := 0#8, clk := 0#8, verb := false, prev := false }

/-- R62: no write in progress. -/
def WriteBuffer.reset : WriteBuffer := { start := none, ticks := [] }

/-- A drive that holds a blank medium and shows no signal (log 8). -/
def Drive.blank : Drive :=
  { medium := .linear [], accepts := true,
    signals := { index := false, diskChanged := false, track0 := false, writeProtected := false, ready := false } }

/-- `PowerOn(t0)` (70_reset_and_hazards.md R320) of a build with parameters `cfg`, nothing presented yet, blank drives. -/
def State.powerOn (cfg : Config) (t0 : Nat) : State :=
  { cfg := cfg, regs := Regs.reset, seq := Sequencer.reset, cur := { lastSync := t0, windowStart := t0 },
    pll := Pll.reset, codec := Codec.reset, tx := Transmit.reset, wbuf := WriteBuffer.reset,
    drives := List.replicate cfg.ndrives Drive.blank, now := t0, inbox := [], out := .nothing, events := [],
    fluxCalls := [], conditions := [], freeCount := 0 }

/-- The machine right after reset: `PowerOn(0)` with the default parameters (10_state.md R62; log 7). -/
def State.reset : State := State.powerOn Config.standard 0

end Sys2Proof.Machine
end

