-- ==== Sys2Proof/Machine/Operands.lean ====
section
/-! DEFINITION. Values assembled from register fields (30_encoding.md R110), register layouts (10_state.md R47 to R54, R59)
and the raw word of a byte (30_encoding.md R106). They are read from the registers when a rule uses them. -/

namespace Sys2Proof.Machine

/-- MODE, `cmd0[1:0]` (10_state.md R47). -/
def Regs.mode (r : Regs) : BitVec 2 := r.cmd0.extractLsb' 0 2

/-- FM, `cmd0[5]` (10_state.md R47). -/
def Regs.fm (r : Regs) : Bool := r.cmd0.getLsbD 5

/-- SIZE, `cmd1[6:5]` (10_state.md R48). -/
def Regs.sizeCode (r : Regs) : BitVec 2 := r.cmd1.extractLsb' 5 2

/-- `sector_size = 128 << size_code` (10_state.md R48, 30_encoding.md R110). -/
def Regs.sectorSize (r : Regs) : Nat := 128 <<< r.sizeCode.toNat

/-- SIDE, `cmd1[4]` (10_state.md R48). -/
def Regs.side (r : Regs) : Bool := r.cmd1.getLsbD 4

/-- `Drive(c)`: the drive a command2 byte selects (10_state.md R59, 45_bus_ops.md R252). -/
def driveOf (c : Byte) : Option Nat := if c.getLsbD 0 then some 0 else if c.getLsbD 1 then some 1 else none

/-- `cur_drive` (10_state.md R59). -/
def Regs.curDrive (r : Regs) : Option Nat := driveOf r.cmd2

/-- The nominal period a cell-length byte commands, `CELL_UNIT * (v and CELL_MASK)` (10_state.md R53). -/
def cellPeriod (cfg : Config) (v : Byte) : Nat := cfg.cellUnit * (v &&& cfg.cellMask).toNat

/-- `nominal_period` (30_encoding.md R110). -/
def nominalPeriod (s : State) : Nat := cellPeriod s.cfg s.regs.cell

/-- A signal at bit `k` of a byte. -/
def flagAt (b : Bool) (k : Nat) : Byte := if b then 1#8 <<< k else 0#8

/-- No drive, no signal: the five drive bits are 0 (10_state.md R54). -/
def noSignals : Signals := { index := false, diskChanged := false, track0 := false, writeProtected := false, ready := false }

/-- The selected drive as its ports show it; `none` with no drive selected, or none at that port (log 13). -/
def selectedDrive (s : State) : Option Drive :=
  match s.regs.curDrive with
  | none => none
  | some d => s.drives[d]?

/-- The status signals a status1 read samples (45_bus_ops.md R247). -/
def sampledSignals (s : State) : Signals :=
  match selectedDrive s with
  | none => noSignals
  | some d => d.signals

/-- The status1 byte (10_state.md R54). -/
def status1 (s : State) : Byte :=
  let g := sampledSignals s
  flagAt g.index 6 ||| flagAt g.diskChanged 5 ||| flagAt (s.regs.cmd2.getLsbD 2) 4 ||| flagAt g.track0 3
    ||| flagAt g.writeProtected 2 ||| flagAt g.ready 1

/-- One pair of cells after the pairs in `w`: clock cell, then data cell (30_encoding.md R105, R106). -/
def pushPair (w : Word16) (c d : Bool) : Word16 := ((w <<< 2) ||| (if c then 2#16 else 0#16)) ||| (if d then 1#16 else 0#16)

/-- `Interleave(c, d)`: the sixteen cells of a byte, earliest in bit 15 (30_encoding.md R106). -/
def interleave (c d : Byte) : Word16 :=
  [7, 6, 5, 4, 3, 2, 1, 0].foldl (fun w i => pushPair w (c.getLsbD i) (d.getLsbD i)) 0#16

end Sys2Proof.Machine
end

