-- ==== Sys2Proof/Machine/Ops.lean ====
section
/-! DEFINITION. The named operations over the state: the updates of its parts, the medium ports (20_memory.md R75 to R77),
the traces, and the restart, which is what taking an exception is here (60_exceptions.md R298). -/

namespace Sys2Proof.Machine

/-! ### Updates, one part of the state each -/

/-- New bus registers. -/
def State.withRegs (s : State) (r : Regs) : State := { s with regs := r }

/-- A new sequencer position. -/
def State.withSeq (s : State) (q : Sequencer) : State := { s with seq := q }

/-- Both cursors at `t`: every rule that moves one moves the other with it (10_state.md R37). -/
def State.withCursors (s : State) (t : Nat) : State := { s with cur := { lastSync := t, windowStart := t } }

/-- New PLL registers. -/
def State.withPll (s : State) (p : Pll) : State := { s with pll := p }

/-- New codec registers. -/
def State.withCodec (s : State) (c : Codec) : State := { s with codec := c }

/-- New transmit registers. -/
def State.withTx (s : State) (t : Transmit) : State := { s with tx := t }

/-- A new write-flux buffer. -/
def State.withWbuf (s : State) (w : WriteBuffer) : State := { s with wbuf := w }

/-- The operation's answer at the output port (log 17). -/
def State.answer (s : State) (o : Output) : State := { s with out := o }

/-- `Emit(e)` to drive `d` (00_scope.md R13); with `d = none` the event goes nowhere (45_bus_ops.md R252). -/
def State.emit (s : State) (d : Option Nat) (e : DriveEvent) : State := { s with events := s.events ++ [(d, e)] }

/-- `raise <Condition>` (00_scope.md R13): record it; the raising rule says what else changes. -/
def State.raise (s : State) (c : Condition) : State := { s with conditions := s.conditions ++ [c] }

/-- `state <- q ; byte_count <- 0`. -/
def State.enter (s : State) (q : SeqState) : State := s.withSeq { state := q, byteCount := 0#16 }

/-- The restart: `state <- READ_WAIT_HEADER_SYNC ; byte_count <- 0`, with nothing else changed (43_sequencer.md section 3,
60_exceptions.md R298). There is no return from it (R299). -/
def State.restart (s : State) : State := s.enter .readWaitHeaderSync

/-- `raise ProtocolMiss`: the silent restart (60_exceptions.md R291). -/
def State.protocolMiss (s : State) : State := s.restart.raise .protocolMiss

/-! ### A list of ticks in rising order -/

/-- The least tick of a rising list at or after `t`. -/
def fluxNext (l : List Nat) (t : Nat) : Option Nat := l.find? (fun x => decide (t ≤ x))

/-- `t` added to a rising list, once. -/
def insertTick (t : Nat) : List Nat → List Nat
  | [] => [t]
  | x :: xs => if t < x then t :: x :: xs else if t = x then x :: xs else x :: insertTick t xs

/-- The ticks of `new` added to a rising list. -/
def mergeTicks (l new : List Nat) : List Nat := new.foldl (fun acc t => insertTick t acc) l

/-- `t` lies outside the interval `[a, e)`. -/
def outside (a e t : Nat) : Bool := decide (t < a) || decide (e ≤ t)

/-! ### The medium (20_memory.md R75 to R77) -/

/-- `RotatingMedium`'s answer: the images of `S` are `s + k*REV` (20_memory.md R77). -/
def rotatingNext (rev : Nat) (l : List Nat) (t : Nat) : Option Nat :=
  if rev = 0 then none
  else match fluxNext l (t % rev) with
    | some x => some (t - t % rev + x)
    | none => match l with
      | [] => none
      | x :: _ => some (t - t % rev + rev + x)

/-- The first image of `x` at or after `a` on a medium of `rev` ticks a revolution. -/
def firstImage (rev : Nat) (a x : Nat) : Nat := a + (x + (rev - a % rev)) % rev

/-- `RotatingMedium`'s overwriting of `[a, e)` (20_memory.md R77). -/
def rotatingWrite (rev : Nat) (l : List Nat) (a e : Nat) (new : List Nat) : List Nat :=
  if e - a < rev then
    mergeTicks (l.filter (fun x => decide (e ≤ firstImage rev a x))) (new.map (· % rev))
  else
    mergeTicks [] ((new.filter (fun t => decide (e ≤ t + rev))).map (· % rev))

/-- The first transition at or after `t` of the unknown medium `id`, from its `k`-th on, `base` being the first tick at which
that one can stand; the `k`-th stands at tick `k` or later, so `t + 1` of them are enough to look at (log 9). -/
def externalSearch : Nat → Nat → Nat → Nat → Nat → Option Nat
  | 0, _, _, _, _ => none
  | fuel + 1, id, k, base, t =>
    match Config.externalGap id k with
    | none => none
    | some gap => if t ≤ base + gap then some (base + gap) else externalSearch fuel id (k + 1) (base + gap + 1) t

/-- What the unknown medium `id` held before any write to it. -/
def externalNext (id : Nat) (t : Nat) : Option Nat := externalSearch (t + 1) id 0 0 t

/-- The earlier of two answers; `never` is infinitely far away (20_memory.md R75). -/
def earlier : Option Nat → Option Nat → Option Nat
  | none, b => b
  | a, none => a
  | some a, some b => some (min a b)

/-- The answers of a medium `base` after the writes of the list, newest first (20_memory.md R76). -/
def overlayNext (base : Nat → Option Nat) : List FluxWrite → Nat → Option Nat
  | [], t => base t
  | w :: ws, t =>
    let old := match overlayNext base ws t with
      | none => none
      | some x => if outside w.first w.stop x then some x else overlayNext base ws w.stop
    earlier old (fluxNext w.flux t)

/-- `NextTransition` of one medium: the least transition at or after `t`, or never (20_memory.md R75). -/
def Medium.next (m : Medium) (t : Nat) : Option Nat :=
  match m with
  | .linear l => fluxNext l t
  | .rotating rev l => rotatingNext rev l t
  | .external id ws => overlayNext (externalNext id) ws t

/-- `WriteFlux` on one medium: the transitions in `[a, e)` are removed, those of `new` added (20_memory.md R76, R77). -/
def Medium.write (m : Medium) (a e : Nat) (new : List Nat) : Medium :=
  match m with
  | .linear l => .linear (mergeTicks (l.filter (outside a e)) new)
  | .rotating rev l => .rotating rev (rotatingWrite rev l a e new)
  | .external id ws => .external id ({ first := a, stop := e, flux := mergeTicks [] new } :: ws)

/-- The canonical form of a medium: ticks strictly rising, and within a revolution of at least one tick. -/
def Medium.wf (m : Medium) : Bool :=
  match m with
  | .linear l => decide (l.Pairwise (· < ·))
  | .rotating rev l => decide (1 ≤ rev) && decide (l.Pairwise (· < ·)) && l.all (fun x => decide (x < rev))
  | .external _ ws => ws.all (fun w => decide (w.flux.Pairwise (· < ·)))

/-- The block's memory is the media of its drives (20_memory.md R74). -/
abbrev Memory := List Drive

/-- Every medium is in canonical form. -/
def Memory.wf (m : Memory) : Bool := m.all (fun d => d.medium.wf)

/-- A drive's medium port takes a `WriteFlux`, or ignores it (93_implementation_defined.md U17). -/
def Drive.write (d : Drive) (a e : Nat) (new : List Nat) : Drive :=
  if d.accepts then { d with medium := d.medium.write a e new } else d

/-- `WriteFlux(d, a, e, L)` on the drives; with no drive the call has no effect (20_memory.md R76). -/
def Memory.write (m : Memory) (d : Option Nat) (a e : Nat) (new : List Nat) : Memory :=
  match d with
  | none => m
  | some k => m.modify k (fun x => x.write a e new)

/-- The medium read port, `NextTransition(cur_drive, t)`: never with no drive (20_memory.md R75, R89). -/
def nextTransition (s : State) (t : Nat) : Option Nat :=
  match selectedDrive s with
  | none => none
  | some d => d.medium.next t

/-- The medium write port, `WriteFlux(cur_drive, a, e, L)`: the call is made, with or without a drive (44_write_flux.md
R233). -/
def State.writeFlux (s : State) (a e : Nat) (new : List Nat) : State :=
  { s with
    drives := Memory.write s.drives s.regs.curDrive a e new
    fluxCalls := s.fluxCalls ++ [{ drive := s.regs.curDrive, first := a, stop := e, flux := new }] }

/-! ### Drive inputs (log 10) -/

/-- A drive with one input changed by the environment. -/
def Drive.input (d : Drive) (i : DriveInput) : Drive :=
  match i with
  | .signals v => { d with signals := v }
  | .medium m => { d with medium := m }
  | .accepts b => { d with accepts := b }

/-- The drives after the environment's inputs, in order. -/
def Memory.inputs (m : Memory) (is : List (Nat × DriveInput)) : Memory :=
  is.foldl (fun m i => m.modify i.1 (fun d => d.input i.2)) m

/-- An input that brings a medium brings it in canonical form. -/
def DriveInput.wf (i : DriveInput) : Bool :=
  match i with
  | .medium m => m.wf
  | .signals _ | .accepts _ => true

end Sys2Proof.Machine
end

