-- ==== Sys2Proof/Machine/Crc.lean ====
section
/-! DEFINITION. The CRC-16/CCITT engine (40_crc.md): three pure functions and the operations that apply them. -/

namespace Sys2Proof.Machine

/-- `CrcBit` (40_crc.md R130). -/
def crcBit (crc : Word16) (bit : Bool) : Word16 :=
  if crc.getLsbD 15 ^^ bit then (crc <<< 1) ^^^ 0x1021#16 else crc <<< 1

/-- `CrcByte`: eight bits, most significant first (40_crc.md R131). -/
def crcByte (crc : Word16) (b : Byte) : Word16 :=
  [7, 6, 5, 4, 3, 2, 1, 0].foldl (fun c i => crcBit c (b.getLsbD i)) crc

/-- The seed (40_crc.md R132, 00_scope.md R9). -/
def crcSeed : Word16 := 0xFFFF#16

/-- `CrcOfByte` (40_crc.md R132). -/
def crcOfByte (b : Byte) : Word16 := crcByte crcSeed b

/-- The fold of a byte sequence (40_crc.md R133). -/
def crcFold (crc : Word16) (bs : List Byte) : Word16 := bs.foldl crcByte crc

/-- CRC_BIT (40_crc.md R130). -/
def execCrcBit (crc : Word16) (bit : Bool) (s : State) : Host.Outcome State Fault Refusal :=
  .next (s.answer (.word (crcBit crc bit)))

/-- CRC_BYTE (40_crc.md R131). -/
def execCrcByte (crc : Word16) (b : Byte) (s : State) : Host.Outcome State Fault Refusal :=
  .next (s.answer (.word (crcByte crc b)))

/-- CRC_OF_BYTE (40_crc.md R132). -/
def execCrcOfByte (b : Byte) (s : State) : Host.Outcome State Fault Refusal :=
  .next (s.answer (.word (crcOfByte b)))

end Sys2Proof.Machine
end

