-- ==== Sys2Proof/Machine/Flags.lean ====
section
/-! DEFINITION. The status0 bits (10_state.md R40 to R46): their masks, reading, setting and clearing them. -/

namespace Sys2Proof.Machine

/-- BYTE, bit 7 (R40, R41). -/
def maskBYTE : Byte := 0x80#8
/-- END, bit 4 (R40, R42): no rule sets it. -/
def maskEND : Byte := 0x10#8
/-- FREE, bit 3 (R40, R43). -/
def maskFREE : Byte := 0x08#8
/-- CRCERR, bit 2 (R40, R44). -/
def maskCRCERR : Byte := 0x04#8
/-- DREQ, bit 1 (R40, R45). -/
def maskDREQ : Byte := 0x02#8
/-- SYNC, bit 0 (R40, R46). -/
def maskSYNC : Byte := 0x01#8

/-- The DREQ bit. -/
def Regs.dreq (r : Regs) : Bool := r.stat0.getLsbD 1

/-- status0 as a whole. -/
def State.setStat0 (s : State) (v : Byte) : State := s.withRegs { s.regs with stat0 := v }

/-- Set the status0 bits of a mask. -/
def State.setFlags (s : State) (m : Byte) : State := s.setStat0 (s.regs.stat0 ||| m)

/-- Clear the status0 bits of a mask. -/
def State.clearFlags (s : State) (m : Byte) : State := s.setStat0 (s.regs.stat0 &&& ~~~m)

/-- `stat0.BYTE <- 1 ; stat0.DREQ <- 1`: a byte is published or requested (R41, R45). -/
def State.requestByte (s : State) : State := s.setFlags (maskBYTE ||| maskDREQ)

/-- `stat0.BYTE <- 0 ; stat0.DREQ <- 0`: the consumer has answered (R41, R45). -/
def State.byteAnswered (s : State) : State := s.clearFlags (maskBYTE ||| maskDREQ)

/-- `stat0.FREE <- 1` (R43). -/
def State.setFree (s : State) : State := s.setFlags maskFREE

/-- `stat0.SYNC <- b` (R46). -/
def State.setSync (s : State) (b : Bool) : State := if b then s.setFlags maskSYNC else s.clearFlags maskSYNC

/-- `if crc != 0 then stat0.CRCERR <- 1`: `raise CrcError` at a read's end (R44, 60_exceptions.md R292). -/
def State.latchCrcError (s : State) : State :=
  if s.codec.crc ≠ 0#16 then (s.setFlags maskCRCERR).raise .crcError else s

end Sys2Proof.Machine
end

