-- ==== Sys2Proof/Machine/Encoder.lean ====
section
/-! DEFINITION. The write side of the codec: the transmit latch and the clock-bit rule (42_codec.md R168, R169). -/

namespace Sys2Proof.Machine

/-- The sync mark's data byte (00_scope.md R9). -/
def markData : Byte := 0xA1#8
/-- The sync mark's clock byte (00_scope.md R9). -/
def markClock : Byte := 0x0A#8

/-- `LatchTx()` (42_codec.md R168). -/
def latchTx (s : State) : State :=
  (s.withTx { s.tx with
    data := s.regs.wdata
    clk := s.regs.clk
    verb := s.regs.wdata == markData && s.regs.clk == markClock }).requestByte

/-- `ClockBit(i)`: FM first, then the verbatim clock, then the MFM rule (42_codec.md R169). -/
def clockBit (fm : Bool) (t : Transmit) (i : Nat) : Bool :=
  if fm then true else if t.verb then t.clk.getLsbD i else !(t.prev || t.data.getLsbD i)

/-- The bit of cell `k` of the byte being sent: even cells are clock cells, odd ones data cells, bit 7 first (42_codec.md
R167). -/
def cellBit (fm : Bool) (t : Transmit) (k : Nat) : Bool :=
  if k % 2 = 0 then clockBit fm t (7 - k / 2) else t.data.getLsbD (7 - k / 2)

end Sys2Proof.Machine
end

