-- ==== Sys2Proof/Machine/WriteFlux.lean ====
section
/-! DEFINITION. The write-flux buffer's three operations (44_write_flux.md). -/

namespace Sys2Proof.Machine

/-- `StartWriting(t)` (44_write_flux.md R231). -/
def startWriting (t : Nat) (s : State) : State :=
  (s.withWbuf { start := some t, ticks := [] }).withPll { s.pll with phaseAdjust := 0 }

/-- `Commit(t)` (44_write_flux.md R233). -/
def commit (t : Nat) (s : State) : State :=
  match s.wbuf.start with
  | none => s
  | some a => if t = a then s else (s.writeFlux a t s.wbuf.ticks).withWbuf { start := some t, ticks := [] }

/-- `StopWriting(t)`: commit, then no write in progress (44_write_flux.md R234). -/
def stopWriting (t : Nat) (s : State) : State := (commit t s).withWbuf { start := none, ticks := [] }

/-- The flush of a command write or a reset: `if write_start != never then StopWriting(window_start)` (43_sequencer.md
R183, 70_reset_and_hazards.md R320). -/
def flushWrite (s : State) : State := if s.wbuf.start.isSome then stopWriting s.cur.windowStart s else s

/-- WBUF_START (44_write_flux.md R231). -/
def execWbufStart (t : Nat) (s : State) : Host.Outcome State Fault Refusal :=
  .next ((startWriting t s).answer .nothing)

/-- WBUF_COMMIT (44_write_flux.md R233). -/
def execWbufCommit (t : Nat) (s : State) : Host.Outcome State Fault Refusal :=
  .next ((commit t s).answer .nothing)

/-- WBUF_STOP (44_write_flux.md R234). -/
def execWbufStop (t : Nat) (s : State) : Host.Outcome State Fault Refusal :=
  .next ((stopWriting t s).answer .nothing)

end Sys2Proof.Machine
end

