-- ==== Sys2Proof/Machine/PhaseLoop.lean ====
section
/-! DEFINITION. The flux PLL (41_pll.md): setting the clock, the reset of its phase, one read cell, one written cell. -/

namespace Sys2Proof.Machine

/-- `trunc(a / b)`, rounded toward zero, for `b > 0` (00_scope.md R13). -/
def truncDiv (a : Int) (b : Nat) : Int := a.sign * ((a.natAbs / b : Nat) : Int)

/-- `clamp(v, lo, hi)` (00_scope.md R13). -/
def clamp (v lo hi : Int) : Int := if v < lo then lo else if hi < v then hi else v

/-- `SetClock(p)` on the PLL's registers (41_pll.md R141). -/
def Pll.setClock (r : Pll) (p : Nat) : Pll :=
  { r with period := p, minPeriod := 3 * p / 4, maxPeriod := 5 * p / 4, adjustBase := p / 20 }

/-- `SetClock(p)` (41_pll.md R141). -/
def setClock (p : Nat) (s : State) : State := s.withPll (s.pll.setClock p)

/-- `PllReadReset(t)` (41_pll.md R140). -/
def pllReadReset (t : Nat) (s : State) : State :=
  (s.withPll { s.pll with phaseAdjust := 0, freqHist := 0#8 }).withCursors t

/-- The end of the cell in progress, `next = window_start + period + phase_adjust` (41_pll.md R142, R143; 90_conflicts.md C5).
The sum is exact: after a cell-length write in mid-command it can lie before `window_start` (log 6). It is never below
tick 0 where `Inv` holds. -/
def windowEnd (s : State) : Nat := ((s.cur.windowStart : Int) + s.pll.period + s.pll.phaseAdjust).toNat

/-- The side condition that 41_pll.md R153 (d) has a model carry and check: the window is not of negative length,
`period + phase_adjust >= 0`. At a constant cell length it always holds (`Steady`); a cell-length write in mid-command can break
it. -/
def Pll.windowOk (r : Pll) : Bool := decide (0 ≤ (r.period : Int) + r.phaseAdjust)

/-- Where the cursors stand after a cell without a transition: at the window's end (41_pll.md R142, R144, R145; 10_state.md R37),
a window that ends before its start included. Only a build with NEGATIVE_WINDOW_POLICY = Hold leaves them standing there, as
10_state.md R35 and R38 have it (DESIGN CHOICE, log 6). -/
def cellCursor (s : State) : Nat :=
  if s.pll.windowOk = false ∧ s.cfg.negativeWindow = .hold then s.cur.windowStart else windowEnd s

/-- The transition that decides the cell in progress: the first at or after its start, if it lies before its end
(41_pll.md R143, R144). -/
def edgeInWindow (s : State) : Option Nat :=
  match nextTransition s s.cur.windowStart with
  | none => none
  | some edge => if edge < windowEnd s then some edge else none

/-- `delta`: how late the transition is against the cell's centre, half a period before the window's end (41_pll.md R146). -/
def edgeDelta (s : State) (edge : Nat) : Int := (edge : Int) - ((windowEnd s : Int) - ((s.pll.period / 2 : Nat) : Int))

/-- The frequency history after a correction (41_pll.md R147). -/
def freqStep (h : BitVec 8) (delta : Int) : BitVec 8 :=
  if delta < 0 then
    if h.toInt < 0 then BitVec.ofInt 8 (max (h.toInt - 1) (-128)) else BitVec.ofInt 8 (-1)
  else if 0 < delta then
    if 0 < h.toInt then BitVec.ofInt 8 (min (h.toInt + 1) 127) else 1#8
  else 0#8

/-- `trunc(adjust_base * delta / period)` (41_pll.md R148); by a zero period, which the rule's precondition excludes, a free
value (log 5). -/
def Pll.nudge (r : Pll) (delta : Int) : Int :=
  if r.period = 0 then Config.freeQuotient ((r.adjustBase : Int) * delta) else truncDiv ((r.adjustBase : Int) * delta) r.period

/-- The corrections a transition makes: phase, history, and the nudge once the history exceeds the threshold (41_pll.md
R146 to R148). -/
def Pll.correct (cfg : Config) (r : Pll) (delta : Int) : Pll :=
  let hist := freqStep r.freqHist delta
  { r with
    phaseAdjust := truncDiv (65 * delta) 100
    freqHist := hist
    period :=
      if cfg.freqThreshold < hist.toInt.natAbs then (clamp ((r.period : Int) + r.nudge delta) r.minPeriod r.maxPeriod).toNat
      else r.period }

/-- `PllGetNextBit(limit)` (41_pll.md R142): the bit and the new state, or `none` for Suspend. -/
def pllGetNextBit (limit : Nat) (s : State) : Option (Bool × State) :=
  if limit < windowEnd s then none
  else match edgeInWindow s with
    | none => some (false, (s.withPll { s.pll with phaseAdjust := 0 }).withCursors (cellCursor s))
    | some edge => some (true, (s.withPll (s.pll.correct s.cfg (edgeDelta s edge))).withCursors (windowEnd s))

/-- A 1-cell's transition is appended at the middle of the cell, a 0-cell appends nothing (41_pll.md R150). -/
def appendCell (bit : Bool) (s : State) : State :=
  if bit then s.withWbuf { s.wbuf with ticks := s.wbuf.ticks ++ [s.cur.windowStart + s.pll.period / 2] } else s

/-- `if length(wbuf) = WBUF_CAP then Commit(etime)` (41_pll.md R150). -/
def commitIfFull (t : Nat) (s : State) : State := if s.wbuf.ticks.length = s.cfg.wbufCap then commit t s else s

/-- `PllWriteNextBit(bit, limit)` (41_pll.md R150): the new state, or `none` for Suspend. -/
def pllWriteNextBit (bit : Bool) (limit : Nat) (s : State) : Option State :=
  let etime := s.cur.windowStart + s.pll.period
  if limit < etime then none else some (commitIfFull etime ((appendCell bit s).withCursors etime))

/-- PLL_SET_CLOCK (41_pll.md R141). -/
def execPllSetClock (p : Nat) (s : State) : Host.Outcome State Fault Refusal :=
  .next ((setClock p s).answer .nothing)

/-- PLL_READ_RESET (41_pll.md R140), to any tick: the rule names no exception (log 5). -/
def execPllReadReset (t : Nat) (s : State) : Host.Outcome State Fault Refusal :=
  .next ((pllReadReset t s).answer .nothing)

/-- PLL_GET_NEXT_BIT (41_pll.md R142): the bit, or Suspend with nothing changed. -/
def execPllGetNextBit (limit : Nat) (s : State) : Host.Outcome State Fault Refusal :=
  match pllGetNextBit limit s with
  | none => .next (s.answer .suspend)
  | some (b, t) => .next (t.answer (.bit b))

/-- PLL_WRITE_NEXT_BIT (41_pll.md R150): Done, or Suspend with nothing changed. -/
def execPllWriteNextBit (bit : Bool) (limit : Nat) (s : State) : Host.Outcome State Fault Refusal :=
  match pllWriteNextBit bit limit s with
  | none => .next (s.answer .suspend)
  | some t => .next (t.answer .done)

end Sys2Proof.Machine
end

