-- ==== Sys2Proof/Machine/Boundary.lean ====
section
/-! DEFINITION. The sequencer: what a completed byte does in each state (43_sequencer.md R189 to R205). -/

namespace Sys2Proof.Machine

/-- The header address mark (00_scope.md R9). -/
def headerMark : Byte := 0xFE#8
/-- The data address mark (00_scope.md R9). -/
def dataMark : Byte := 0xFB#8

/-- `byte_count <- byte_count + 1`. -/
def State.countByte (s : State) : State := s.withSeq { s.seq with byteCount := s.seq.byteCount + 1 }

/-- The number of the byte at this boundary, `n` after the count. -/
def State.byteNumber (s : State) : Nat := (s.seq.byteCount + 1).toNat

/-- A search ends at a mark: the CRC is seeded with it and the next state entered (43_sequencer.md R189, R195). -/
def seedAndEnter (q : SeqState) (s : State) : State :=
  (s.withCodec { s.codec with crc := crcOfByte s.codec.dataReg }).enter q

/-- READ_WAIT_HEADER_SYNC (43_sequencer.md R189). -/
def waitHeaderBoundary (synced : Bool) (s : State) : State := if synced then seedAndEnter .readVerifyHeader s else s

/-- The check of header byte `n` (43_sequencer.md R190). No other number than 1 to 9 occurs (10_state.md R31; log 14). A header
whose search ended on the third mark so fails at byte 1, one whose search ended on the second at byte 2; R191's derived remark names
bytes 2 and 3, and the model follows R190's table (DEDUCED, log 24). -/
def headerByteOk (synced : Bool) (s : State) (n : Nat) : Bool :=
  match n with
  | 1 | 2 => synced
  | 3 => s.codec.dataReg == headerMark
  | 4 => s.codec.dataReg == s.regs.trck
  | 5 => s.codec.dataReg.getLsbD 0 == s.regs.side
  | 6 => s.codec.dataReg == s.regs.sect
  | 7 => s.codec.dataReg.extractLsb' 0 2 == s.regs.sizeCode
  | 8 => true
  | 9 => s.codec.crc == 0#16
  | _ => false

/-- Where a verified header leads, by `cmd0.MODE` (43_sequencer.md R190). -/
def afterHeader (mode : BitVec 2) : SeqState :=
  if mode = 1#2 then .writeSkipGap else if mode = 3#2 then .readSkipGap else .readWaitHeaderSync

/-- READ_VERIFY_HEADER (43_sequencer.md R190). -/
def verifyHeaderBoundary (synced : Bool) (s : State) : State :=
  if headerByteOk synced s s.byteNumber = false then s.protocolMiss
  else if s.byteNumber = 9 then s.enter (afterHeader s.regs.mode)
  else s.countByte

/-- READ_SKIP_GAP: 27 bytes (43_sequencer.md R193). -/
def readSkipGapBoundary (s : State) : State := if s.byteNumber = 27 then s.enter .readWaitSectorSync else s.countByte

/-- WRITE_SKIP_GAP: 22 bytes, then writing starts where the read cursor stands (43_sequencer.md R194). -/
def writeSkipGapBoundary (s : State) : State :=
  if s.byteNumber = 22 then
    let t := s.enter .writeSectorSync
    let u := (t.withCodec { t.codec with bitCount := 0 }).setSync false
    (startWriting u.cur.windowStart u).withTx { data := 0x00#8, clk := 0x00#8, verb := false, prev := false }
  else s.countByte

/-- READ_WAIT_SECTOR_SYNC: a mark within 42 bytes, or the whole command restarts (43_sequencer.md R195). -/
def waitSectorBoundary (synced : Bool) (s : State) : State :=
  if synced then seedAndEnter .readVerifySector s
  else if s.byteNumber = 42 then s.protocolMiss
  else s.countByte

/-- READ_VERIFY_SECTOR: byte 3 is the data mark (43_sequencer.md R196). -/
def verifySectorBoundary (s : State) : State :=
  if s.byteNumber = 3 then
    if s.codec.dataReg = dataMark then s.enter .read else s.protocolMiss
  else s.countByte

/-- The overrun abort (43_sequencer.md R198). -/
def overrunAbort (s : State) : State := (s.latchCrcError.setFree.restart).raise .readOverrun

/-- READ, completion (43_sequencer.md R199). -/
def readComplete (s : State) : State := s.latchCrcError.setFree.enter .idle

/-- READ, publication of the byte (43_sequencer.md R197). -/
def publish (s : State) : State := (s.withRegs { s.regs with rdata := s.codec.dataReg }).requestByte

/-- READ counts the byte, and publishes it when it is a data byte (43_sequencer.md R197). -/
def takeByte (s : State) : State := if s.byteNumber ≤ s.regs.sectorSize then publish s.countByte else s.countByte

/-- READ (43_sequencer.md R197 to R199): the overrun test comes first, a data byte is published, and the boundary two past the
last data byte ends the transfer. -/
def readBoundaryRead (s : State) : State :=
  if s.byteNumber ≤ s.regs.sectorSize ∧ s.regs.dreq = true ∧ s.cfg.readOverrun = .abort then overrunAbort s
  else if s.regs.sectorSize + 2 ≤ s.byteNumber then readComplete (takeByte s)
  else takeByte s

/-- `ReadBoundary(synced)` (43_sequencer.md R205). -/
def readBoundary (synced : Bool) (s : State) : State :=
  match s.seq.state with
  | .readWaitHeaderSync => waitHeaderBoundary synced s
  | .readVerifyHeader => verifyHeaderBoundary synced s
  | .readSkipGap => readSkipGapBoundary s
  | .writeSkipGap => writeSkipGapBoundary s
  | .readWaitSectorSync => waitSectorBoundary synced s
  | .readVerifySector => verifySectorBoundary s
  | .read => readBoundaryRead s
  | .idle | .writeSectorSync | .writeSector | .writeCrc | .format => s

/-- WRITE_SECTOR_SYNC: 12 bytes, then the first byte is latched (43_sequencer.md R200). -/
def writeSyncBoundary (s : State) : State :=
  if s.byteNumber = 12 then latchTx ((s.withCodec { s.codec with crc := crcSeed }).enter .writeSector) else s.countByte

/-- WRITE_SECTOR: `sector_size + 4` bytes, then the high CRC byte (43_sequencer.md R201). -/
def writeSectorBoundary (s : State) : State :=
  if s.regs.sectorSize + 4 ≤ s.byteNumber then
    (s.enter .writeCrc).withTx { s.tx with data := s.codec.crc.extractLsb' 8 8, verb := false }
  else latchTx s.countByte

/-- The end of WRITE_CRC: the write stops and the header search begins again (43_sequencer.md R202). -/
def writeComplete (s : State) : State :=
  let t := (stopWriting s.cur.windowStart s).setFree
  let u := (pllReadReset t.cur.windowStart t).restart
  u.withCodec { u.codec with bitCount := 0, phase := false }

/-- WRITE_CRC: the low CRC byte, then the end (43_sequencer.md R202). -/
def writeCrcBoundary (s : State) : State :=
  if s.byteNumber = 1 then s.countByte.withTx { s.tx with data := s.codec.crc.extractLsb' 0 8 } else writeComplete s

/-- `WriteBoundary()` (43_sequencer.md R205); FORMAT latches at every boundary (R203). -/
def writeBoundary (s : State) : State :=
  match s.seq.state with
  | .writeSectorSync => writeSyncBoundary s
  | .writeSector => writeSectorBoundary s
  | .writeCrc => writeCrcBoundary s
  | .format => latchTx s
  | .idle | .readWaitHeaderSync | .readVerifyHeader | .readSkipGap | .readWaitSectorSync | .readVerifySector | .read
  | .writeSkipGap => s

end Sys2Proof.Machine
end

