-- ==== Sys2Proof/Machine/Cells.lean ====
section
/-! DEFINITION. The FM/MFM codec, one cell each way (42_codec.md R160 to R167, R171). -/

namespace Sys2Proof.Machine

/-- A bit shifted in at bit 0 (42_codec.md R160 to R162). -/
def shiftIn8 (r : Byte) (b : Bool) : Byte := (r <<< 1) ||| (if b then 1#8 else 0#8)

/-- A bit shifted in at bit 0 (42_codec.md R160). -/
def shiftIn16 (r : Word16) (b : Bool) : Word16 := (r <<< 1) ||| (if b then 1#16 else 0#16)

/-- The feeds of one decoded bit (42_codec.md R160 to R162): the raw history, then the data or the clock register. -/
def Codec.feed (c : Codec) (b : Bool) : Codec :=
  { c with
    shiftReg := shiftIn16 c.shiftReg b
    dataReg := if c.phase then shiftIn8 c.dataReg b else c.dataReg
    clkReg := if c.phase then c.clkReg else shiftIn8 c.clkReg b
    crc := if c.phase then crcBit c.crc b else c.crc
    phase := !c.phase
    bitCount := c.bitCount + 1 }

/-- The sync comparison, in either order (42_codec.md R165). -/
def syncMatch (r : Regs) (c : Codec) : Bool :=
  (c.dataReg == r.wdata && c.clkReg == r.clk) || (c.dataReg == r.clk && c.clkReg == r.wdata)

/-- The realignment on a match (42_codec.md R166). -/
def Codec.realign (c : Codec) (r : Regs) : Codec :=
  { c with dataReg := r.wdata, clkReg := r.clk, phase := false, bitCount := 0 }

/-- The registers after a decoded bit that completes no mark: the feeds, and SYNC cleared (42_codec.md R164). -/
def fedCell (b : Bool) (s : State) : State := (s.withCodec (s.codec.feed b)).setSync false

/-- The registers after a decoded bit that completes a mark: the realignment, and SYNC set (42_codec.md R166). -/
def markCell (b : Bool) (s : State) : State := (s.withCodec ((s.codec.feed b).realign s.regs)).setSync true

/-- What a decoded bit does (42_codec.md R164); `bit_count` passes 15 exactly when the sixteenth cell is counted. -/
def decodedBit (b : Bool) (s : State) : State :=
  if syncMatch s.regs (s.codec.feed b) then readBoundary true (markCell b s)
  else if s.codec.bitCount = 15 then readBoundary false (fedCell b s)
  else fedCell b s

/-- `CodecReadCell(limit)` (42_codec.md R164); `none` is Suspend. -/
def codecReadCell (limit : Nat) (s : State) : Option State :=
  match pllGetNextBit limit s with
  | none => none
  | some (b, t) => some (decodedBit b t)

/-- The registers after a sent cell (42_codec.md R167): `k` is its number in the byte, `b` its bit, `q` the state it was sent
in. A data cell becomes `tx_prev`, and in WRITE_SECTOR goes through the CRC. -/
def sentCell (k : Fin 16) (b : Bool) (q : SeqState) (s : State) : State :=
  (s.withTx { s.tx with prev := if k.val % 2 = 1 then b else s.tx.prev }).withCodec { s.codec with
    crc := if k.val % 2 = 1 ∧ q = .writeSector then crcBit s.codec.crc b else s.codec.crc
    bitCount := k + 1 }

/-- What a sent cell does once the PLL has placed it (42_codec.md R167, R171). -/
def sentBit (k : Fin 16) (b : Bool) (q : SeqState) (s : State) : State :=
  if k = 15 then writeBoundary (sentCell k b q s) else sentCell k b q s

/-- The bit of the next cell to send. -/
def nextCellBit (s : State) : Bool := cellBit s.regs.fm s.tx s.codec.bitCount.val

/-- `CodecWriteCell(limit)` (42_codec.md R167); `none` is Suspend. -/
def codecWriteCell (limit : Nat) (s : State) : Option State :=
  match pllWriteNextBit (nextCellBit s) limit s with
  | none => none
  | some t => some (sentBit s.codec.bitCount (nextCellBit s) s.seq.state t)

/-- CODEC_READ_CELL (42_codec.md R164): Done, or Suspend with nothing changed. -/
def execCodecReadCell (limit : Nat) (s : State) : Host.Outcome State Fault Refusal :=
  match codecReadCell limit s with
  | none => .next (s.answer .suspend)
  | some t => .next (t.answer .done)

/-- CODEC_WRITE_CELL (42_codec.md R167): Done, or Suspend with nothing changed. -/
def execCodecWriteCell (limit : Nat) (s : State) : Host.Outcome State Fault Refusal :=
  match codecWriteCell limit s with
  | none => .next (s.answer .suspend)
  | some t => .next (t.answer .done)

end Sys2Proof.Machine
end

