-- ==== Sys2Proof/Machine/Synchronise.lean ====
section
/-! DEFINITION. The driving loop `Sync(now)` (43_sequencer.md R180), and reset (70_reset_and_hazards.md R320). -/

namespace Sys2Proof.Machine

/-- One cell of the loop, by the class of the state (43_sequencer.md R180); `none` is Suspend. -/
def syncCell (now : Nat) (s : State) : Option State :=
  if s.seq.state.isRead then codecReadCell now s else codecWriteCell now s

/-- The loop, at most `fuel` cells (43_sequencer.md R180). -/
def syncLoop : Nat → Nat → State → State
  | 0, _, s => s
  | fuel + 1, now, s =>
    if s.cur.lastSync < now then
      if s.seq.state = .idle ∨ s.pll.period = 0 then s.withCursors now
      else match syncCell now s with
        | none => s
        | some t => syncLoop fuel now t
    else s

/-- At least as many as the cells one `Sync` runs: the bound of 43_sequencer.md R182, and as many more as a window of negative
length can give back (log 6, log 15). -/
def cellBound (now : Nat) (s : State) : Nat := 2 * (now - s.cur.lastSync) + 1 + s.pll.phaseAdjust.natAbs

/-- `Sync(now)` (43_sequencer.md R180). -/
def sync (now : Nat) (s : State) : State := syncLoop (cellBound now s) now s

/-- An operation with a `now`: refused when the tick lies before `last_sync` (70_reset_and_hazards.md R331), else `Sync(now)`
and then the operation's own action (20_memory.md R82, 45_bus_ops.md R245). -/
def afterSync (act : State → State) (s : State) : Host.Outcome State Fault Refusal :=
  if s.now < s.cur.lastSync then .refused .timeBackward else .next (act (sync s.now s))

/-- Every state element of the block at its value in 10_state.md R62, the cursors at `t`; the parameters, the drives and what
has passed the ports are not state of the block (10_state.md R61). -/
def clearState (t : Nat) (s : State) : State :=
  { s with
    regs := Regs.reset, seq := Sequencer.reset, cur := { lastSync := t, windowStart := t }, pll := Pll.reset,
    codec := Codec.reset, tx := Transmit.reset, wbuf := WriteBuffer.reset }

/-- SYNC (43_sequencer.md R180): `Sync(now)` with no access (30_encoding.md R117). -/
def execSync (s : State) : Host.Outcome State Fault Refusal := afterSync (fun t => t.answer .nothing) s

/-- RESET (70_reset_and_hazards.md R320): brought up to now, a write in progress flushed, then cleared. -/
def execReset (s : State) : Host.Outcome State Fault Refusal :=
  afterSync (fun t => (clearState t.now (flushWrite t)).answer .nothing) s

end Sys2Proof.Machine
end

