-- ==== Sys2Proof/Machine/Command.lean ====
section
/-! DEFINITION. The five commands (43_sequencer.md R183 to R188). As an operation of its own a command is its issue, the write
of its byte to offset 0: `Sync(now)` has run before the command's own part (R183; log 4). -/

namespace Sys2Proof.Machine

/-- `CommandStart(v, now)`, the common part (43_sequencer.md R183). -/
def commandStart (v : Byte) (s : State) : State :=
  let t := flushWrite s
  let u := pllReadReset t.now (t.withRegs { t.regs with cmd0 := v })
  (u.withCodec { u.codec with bitCount := 0, phase := false }).withSeq { u.seq with byteCount := 0#16 }

/-- A command's own new state of the sequencer. -/
def State.inState (s : State) (q : SeqState) : State := s.withSeq { s.seq with state := q }

/-- CMD_IDLE's own part: CRCERR kept, FREE set, the rest cleared (43_sequencer.md R184). -/
def idleCommand (v : Byte) (s : State) : State :=
  let t := (commandStart v s).inState .idle
  t.setStat0 ((t.regs.stat0 &&& maskCRCERR) ||| maskFREE)

/-- The header search of modes 1, 2 and 3 (43_sequencer.md R185 to R187). -/
def searchCommand (v : Byte) (s : State) : State := ((commandStart v s).inState .readWaitHeaderSync).setStat0 0x00#8

/-- CMD_FORMAT's own part: writing starts at once (43_sequencer.md R188). -/
def formatCommand (v : Byte) (s : State) : State :=
  let t := ((commandStart v s).inState .format).setStat0 0x00#8
  let u := startWriting t.now t
  latchTx (u.withTx { u.tx with prev := false })

/-- The command a byte selects, started (30_encoding.md R103). -/
def startCommand (v : Byte) (s : State) : State :=
  if selects 0x07#8 0x00#8 v then idleCommand v s
  else if selects 0x07#8 0x04#8 v then formatCommand v s
  else searchCommand v s

/-- A build that refuses mode 2 gives it no meaning (30_encoding.md R114). -/
def headRefused (v : Byte) (s : State) : Bool := selects 0x03#8 0x02#8 v && s.cfg.readHead == .refuse

/-- CMD_IDLE (43_sequencer.md R184). -/
def execCmdIdle (v : Byte) (s : State) : Host.Outcome State Fault Refusal :=
  afterSync (fun t => (idleCommand v t).answer .nothing) s

/-- CMD_FORMAT (43_sequencer.md R188). -/
def execCmdFormat (v : Byte) (s : State) : Host.Outcome State Fault Refusal :=
  afterSync (fun t => (formatCommand v t).answer .nothing) s

/-- CMD_WRITE_SECTOR (43_sequencer.md R185). -/
def execCmdWriteSector (v : Byte) (s : State) : Host.Outcome State Fault Refusal :=
  afterSync (fun t => (searchCommand v t).answer .nothing) s

/-- CMD_READ_HEAD (43_sequencer.md R186), refused where the build does not have it (30_encoding.md R114). -/
def execCmdReadHead (v : Byte) (s : State) : Host.Outcome State Fault Refusal :=
  if s.cfg.readHead = .refuse then .refused .unsupportedCommand
  else afterSync (fun t => (searchCommand v t).answer .nothing) s

/-- CMD_READ_SECTOR (43_sequencer.md R187). -/
def execCmdReadSector (v : Byte) (s : State) : Host.Outcome State Fault Refusal :=
  afterSync (fun t => (searchCommand v t).answer .nothing) s

end Sys2Proof.Machine
end

