-- ==== Sys2Proof/Machine/BusAccess.lean ====
section
/-! DEFINITION. The bus operations (45_bus_ops.md): `Sync(now)`, then the register's own action. -/

namespace Sys2Proof.Machine

/-- A reserved read's byte: a free value, a new one for each read (30_encoding.md R112; log 11). -/
def reservedRead (s : State) : State :=
  { s with out := .data (Config.freeByte s.freeCount), freeCount := s.freeCount + 1 }

/-- A plain register write: the new registers, no answer. -/
def writeRegs (f : Regs → Regs) (s : State) : State := (s.withRegs (f s.regs)).answer .nothing

/-- `RD_DATA`'s own action (45_bus_ops.md R248). -/
def consumeData (s : State) : State := (s.byteAnswered).answer (.data s.regs.rdata)

/-- `WR_CMD2`'s commit: pending flux goes to the old drive when the selection changes (45_bus_ops.md R252). -/
def commitOnReselect (v : Byte) (s : State) : State :=
  if driveOf s.regs.cmd2 ≠ driveOf v ∧ s.wbuf.start.isSome then commit s.cur.windowStart s else s

/-- `WR_CMD2`'s own action (45_bus_ops.md R252): the level events at every write, the pulse on a rising STEP. -/
def selectDrive (v : Byte) (s : State) : State :=
  let t := (commitOnReselect v s).withRegs { (commitOnReselect v s).regs with cmd2 := v }
  let d := driveOf v
  let u := ((t.emit d (.setSide (v.getLsbD 6))).emit d (.setDirection (v.getLsbD 5))).emit d (.setMotor (v.getLsbD 2))
  if v.getLsbD 4 && !s.regs.cmd2.getLsbD 4 then u.emit d .stepPulse else u

/-- `WR_CELL`'s own action (45_bus_ops.md R257). -/
def commandCell (v : Byte) (s : State) : State :=
  setClock (cellPeriod s.cfg v) (s.withRegs { s.regs with cell := v })

/-- RD_STAT0 (45_bus_ops.md R246). -/
def execRdStat0 (s : State) : Host.Outcome State Fault Refusal :=
  afterSync (fun t => t.answer (.data t.regs.stat0)) s

/-- RD_STAT1 (45_bus_ops.md R247). -/
def execRdStat1 (s : State) : Host.Outcome State Fault Refusal :=
  afterSync (fun t => t.answer (.data (status1 t))) s

/-- RD_RSVD2 (45_bus_ops.md R249). -/
def execRdRsvd2 (s : State) : Host.Outcome State Fault Refusal := afterSync reservedRead s

/-- RD_DATA (45_bus_ops.md R248). -/
def execRdData (s : State) : Host.Outcome State Fault Refusal := afterSync consumeData s

/-- RD_RSVD4, offsets 4 to 7 (45_bus_ops.md R249). -/
def execRdRsvd4 (_offset : BitVec 3) (s : State) : Host.Outcome State Fault Refusal := afterSync reservedRead s

/-- WR_CMD0 (45_bus_ops.md R250): the command its byte selects is started. -/
def execWrCmd0 (v : Byte) (s : State) : Host.Outcome State Fault Refusal :=
  if headRefused v s then .refused .unsupportedCommand
  else afterSync (fun t => (startCommand v t).answer .nothing) s

/-- WR_CMD1 (45_bus_ops.md R251). -/
def execWrCmd1 (v : Byte) (s : State) : Host.Outcome State Fault Refusal :=
  afterSync (writeRegs (fun r => { r with cmd1 := v })) s

/-- WR_CMD2 (45_bus_ops.md R252). -/
def execWrCmd2 (v : Byte) (s : State) : Host.Outcome State Fault Refusal :=
  afterSync (fun t => (selectDrive v t).answer .nothing) s

/-- WR_DATA (45_bus_ops.md R253): the byte stored, BYTE and DREQ cleared. -/
def execWrData (v : Byte) (s : State) : Host.Outcome State Fault Refusal :=
  afterSync (fun t => (writeRegs (fun r => { r with wdata := v }) t).byteAnswered) s

/-- WR_CLK (45_bus_ops.md R254). -/
def execWrClk (v : Byte) (s : State) : Host.Outcome State Fault Refusal :=
  afterSync (writeRegs (fun r => { r with clk := v })) s

/-- WR_SECT (45_bus_ops.md R255). -/
def execWrSect (v : Byte) (s : State) : Host.Outcome State Fault Refusal :=
  afterSync (writeRegs (fun r => { r with sect := v })) s

/-- WR_TRCK (45_bus_ops.md R256). -/
def execWrTrck (v : Byte) (s : State) : Host.Outcome State Fault Refusal :=
  afterSync (writeRegs (fun r => { r with trck := v })) s

/-- WR_CELL (45_bus_ops.md R257). -/
def execWrCell (v : Byte) (s : State) : Host.Outcome State Fault Refusal :=
  afterSync (fun t => (commandCell v t).answer .nothing) s

end Sys2Proof.Machine
end

