-- ==== Sys2Proof/Machine/Dispatch.lean ====
section
/-! DEFINITION. One arm per operation, each one call of its meaning. -/

namespace Sys2Proof.Machine

def exec (i : Instr) (s : State) : Host.Outcome State Fault Refusal :=
  match i with
  | .rdStat0 => Sys2Proof.Machine.execRdStat0 s
  | .rdStat1 => Sys2Proof.Machine.execRdStat1 s
  | .rdRsvd2 => Sys2Proof.Machine.execRdRsvd2 s
  | .rdData => Sys2Proof.Machine.execRdData s
  | .rdRsvd4 offset => Sys2Proof.Machine.execRdRsvd4 offset s
  | .wrCmd0 v => Sys2Proof.Machine.execWrCmd0 v s
  | .wrCmd1 v => Sys2Proof.Machine.execWrCmd1 v s
  | .wrCmd2 v => Sys2Proof.Machine.execWrCmd2 v s
  | .wrData v => Sys2Proof.Machine.execWrData v s
  | .wrClk v => Sys2Proof.Machine.execWrClk v s
  | .wrSect v => Sys2Proof.Machine.execWrSect v s
  | .wrTrck v => Sys2Proof.Machine.execWrTrck v s
  | .wrCell v => Sys2Proof.Machine.execWrCell v s
  | .cmdIdle v => Sys2Proof.Machine.execCmdIdle v s
  | .cmdFormat v => Sys2Proof.Machine.execCmdFormat v s
  | .cmdWriteSector v => Sys2Proof.Machine.execCmdWriteSector v s
  | .cmdReadHead v => Sys2Proof.Machine.execCmdReadHead v s
  | .cmdReadSector v => Sys2Proof.Machine.execCmdReadSector v s
  | .crcBit crc bit => Sys2Proof.Machine.execCrcBit crc bit s
  | .crcByte crc b => Sys2Proof.Machine.execCrcByte crc b s
  | .crcOfByte b => Sys2Proof.Machine.execCrcOfByte b s
  | .pllSetClock p => Sys2Proof.Machine.execPllSetClock p s
  | .pllReadReset t => Sys2Proof.Machine.execPllReadReset t s
  | .pllGetNextBit limit => Sys2Proof.Machine.execPllGetNextBit limit s
  | .pllWriteNextBit bit limit => Sys2Proof.Machine.execPllWriteNextBit bit limit s
  | .codecReadCell limit => Sys2Proof.Machine.execCodecReadCell limit s
  | .codecWriteCell limit => Sys2Proof.Machine.execCodecWriteCell limit s
  | .wbufStart t => Sys2Proof.Machine.execWbufStart t s
  | .wbufCommit t => Sys2Proof.Machine.execWbufCommit t s
  | .wbufStop t => Sys2Proof.Machine.execWbufStop t s
  | .sync => Sys2Proof.Machine.execSync s
  | .reset => Sys2Proof.Machine.execReset s

end Sys2Proof.Machine
end

