-- ==== Sys2Proof/Machine/Fetch.lean ====
section
/-! DEFINITION. Taking the next operation from the ports (20_memory.md R73; log 2): its bytes decoded, its tick and drive inputs
standing at the ports while it runs. -/

namespace Sys2Proof.Machine

/-- The operation a request presents. -/
def Request.decoded (r : Request) : Except DecodeError Instr := decode r.fmt r.bytes

/-- The state in which the request's operation runs: its tick at the time port, its drive inputs in force, the request taken
from the ports. -/
def State.latch (s : State) (r : Request) (rest : List Request) : State :=
  { s with now := r.now, drives := Memory.inputs s.drives r.inputs, inbox := rest }

/-- The operation presented first, taken from the ports: it, and the state in which it runs. The tick at the time port never
decreases: one earlier than the operation before is refused (20_memory.md R73, R84; 70_reset_and_hazards.md R331; D1). -/
def State.take (s : State) (r : Request) (rest : List Request) : Except Refusal (Instr × State) :=
  match r.decoded with
  | .error e => .error (.undecodable e)
  | .ok i => if r.now < s.now then .error .timeBackward else .ok (i, s.latch r rest)

/-- A request presented ahead of those that wait. -/
def State.present (s : State) (r : Request) : State := { s with inbox := r :: s.inbox }

/-- The earliest tick the block accepts for its next operation: not before `last_sync`, not before the operation before
(70_reset_and_hazards.md R331). -/
def State.earliestTick (s : State) : Nat := max s.now s.cur.lastSync

/-- The request that holds a bare table word: its bytes as the decoder is given them, no drive input, applied at the earliest
tick the block accepts (DESIGN CHOICE, log 2). -/
def wordRequest (nbits w : Nat) (s : State) : Request :=
  { fmt := (tableWord nbits w).1, bytes := (tableWord nbits w).2, now := s.earliestTick, inputs := [] }

end Sys2Proof.Machine
end

