-- ==== Sys2Proof/Machine/Step.lean ====
section
/-! DEFINITION. One step: the next operation presented at the ports is performed (20_memory.md R84; log 2). -/

namespace Sys2Proof.Machine

/-- One step. Between two operations the block does nothing (20_memory.md R84): with none presented the state stays. -/
def step (s : State) : Host.Outcome State Fault Refusal :=
  match s.inbox with
  | [] => .next s
  | r :: rest =>
    match s.take r rest with
    | .error e => .refused e
    | .ok (i, t) => exec i t

/-- `s` with the table word `w` of `nbits` bits presented as its next operation. -/
def State.withFetchWord (s : State) (nbits w : Nat) : State := s.present (wordRequest nbits w s)

end Sys2Proof.Machine
end

