-- ==== Sys2Proof/Safety.lean ====
section
/-! DEFINITION. The terms the claims are stated in: invariants, the transition table, runs of cells. Nothing of the machine
depends on this file. -/

namespace Sys2Proof.Machine

/-- The largest number of bytes a state holds counted between two boundaries (43_sequencer.md R189 to R203). -/
def byteBound : SeqState → Nat
  | .idle | .readWaitHeaderSync | .format => 0
  | .readVerifyHeader => 8
  | .readSkipGap => 26
  | .readWaitSectorSync => 41
  | .readVerifySector => 2
  | .read => 1025
  | .writeSkipGap => 21
  | .writeSectorSync => 11
  | .writeSector => 1027
  | .writeCrc => 1

/-- Every medium a waiting operation brings is in canonical form. -/
def waitingWf (inbox : List Request) : Bool := inbox.all (fun r => r.inputs.all (fun i => i.2.wf))

/-- What every operation keeps, engine operations performed on their own included. -/
structure Inv (s : State) : Prop where
  /-- 10_state.md R37: the two cursors are always equal. -/
  cursors : s.cur.lastSync = s.cur.windowStart
  /-- 10_state.md R40, R42: bits 6 and 5 of status0 are 0, and END is never set. -/
  reserved : s.regs.stat0 &&& 0x70#8 = 0#8
  /-- 41_pll.md R153 (a). -/
  period : s.pll.minPeriod ≤ s.pll.period ∧ s.pll.period ≤ s.pll.maxPeriod
  /-- 10_state.md R31: the count stays where its state's rule leaves it. -/
  count : s.seq.byteCount.toNat ≤ byteBound s.seq.state
  /-- 41_pll.md R146: a phase correction is smaller than the time that has passed, so a window never ends before tick 0
  (00_scope.md R12). -/
  phase : 0 ≤ (s.cur.windowStart : Int) + s.pll.phaseAdjust
  /-- The media are in canonical form. -/
  media : Memory.wf s.drives = true
  /-- So are the media that waiting operations bring. -/
  waiting : waitingWf s.inbox = true

/-- What the operations a consumer or the reset port can apply keep, beyond `Inv`. -/
structure BlockInv (s : State) : Prop where
  basic : Inv s
  /-- 00_scope.md R10. -/
  params : s.cfg.wf = true
  /-- 10_state.md R35: `last_sync` never runs ahead of the time port. -/
  onTime : s.cur.lastSync ≤ s.now
  /-- 44_write_flux.md R230: a write is in progress exactly while the state is write-type. -/
  writing : s.wbuf.start.isSome = s.seq.state.isWrite
  /-- 10_state.md R58: no write in progress, nothing buffered. -/
  emptied : s.wbuf.start = none → s.wbuf.ticks = []
  /-- 10_state.md R58, 44_write_flux.md R232: buffered transitions lie in `[write_start, window_start)`. -/
  interval : ∀ a, s.wbuf.start = some a → a ≤ s.cur.windowStart ∧ ∀ t ∈ s.wbuf.ticks, a ≤ t ∧ t < s.cur.windowStart
  /-- 44_write_flux.md R232: and rise strictly. -/
  rising : s.wbuf.ticks.Pairwise (· < ·)
  /-- 44_write_flux.md R232: between cells the buffer is not full. -/
  room : s.wbuf.ticks.length < s.cfg.wbufCap
  /-- 10_state.md R55, 41_pll.md R141: the bounds are those of the commanded cell length. -/
  bounds : s.pll.minPeriod = 3 * nominalPeriod s / 4 ∧ s.pll.maxPeriod = 5 * nominalPeriod s / 4
    ∧ s.pll.adjustBase = nominalPeriod s / 20
  /-- 41_pll.md R153 (c): below 20 the period never moves. -/
  still : nominalPeriod s < 20 → s.pll.period = nominalPeriod s

/-- A request that presents an operation of the consumer or the reset port. -/
def Request.external (r : Request) : Bool :=
  match r.decoded with
  | .ok i => i.external
  | .error _ => false

/-- What of a drive the block never writes: the five signals, and whether its port takes writes (20_memory.md R73, log 9). -/
def Drive.inputsOf (d : Drive) : Signals × Bool := (d.signals, d.accepts)

/-- What no rule of the block touches: the drives' inputs, the parameters, the time port, the waiting operations, the free-byte
counter. -/
structure PortsKept (s t : State) : Prop where
  drives : t.drives.map Drive.inputsOf = s.drives.map Drive.inputsOf
  cfg : t.cfg = s.cfg
  now : t.now = s.now
  inbox : t.inbox = s.inbox
  out : t.out = s.out
  events : t.events = s.events
  freeCount : t.freeCount = s.freeCount

/-- The state changes one cell can make (43_sequencer.md R204, the rows that are no command and no reset). -/
def cellTransitions : List (SeqState × SeqState) :=
  [(.readWaitHeaderSync, .readVerifyHeader),
   (.readVerifyHeader, .readWaitHeaderSync), (.readVerifyHeader, .writeSkipGap), (.readVerifyHeader, .readSkipGap),
   (.readSkipGap, .readWaitSectorSync),
   (.readWaitSectorSync, .readVerifySector), (.readWaitSectorSync, .readWaitHeaderSync),
   (.readVerifySector, .read), (.readVerifySector, .readWaitHeaderSync),
   (.read, .readWaitHeaderSync), (.read, .idle),
   (.writeSkipGap, .writeSectorSync), (.writeSectorSync, .writeSector), (.writeSector, .writeCrc),
   (.writeCrc, .readWaitHeaderSync)]

/-- `n` read cells of the PLL one after the other: their bits, earliest first, and the state after them. -/
def readCells : Nat → Nat → State → Option (List Bool × State)
  | 0, _, s => some ([], s)
  | n + 1, limit, s =>
    match pllGetNextBit limit s with
    | none => none
    | some (b, t) =>
      match readCells n limit t with
      | none => none
      | some (bs, u) => some (b :: bs, u)

/-- The cells `k`, `k + 1`, … (`n` of them) of the byte in the transmit registers, with `tx_prev` following each data cell
(42_codec.md R167, R169). -/
def sendCells (fm : Bool) : Nat → Nat → Transmit → List Bool
  | 0, _, _ => []
  | n + 1, k, t =>
    cellBit fm t k :: sendCells fm n (k + 1) (if k % 2 = 1 then { t with prev := cellBit fm t k } else t)

/-- The sixteen cells of the byte in the transmit registers. -/
def sendByte (fm : Bool) (t : Transmit) : List Bool := sendCells fm 16 0 t

/-- A medium's answer at one tick: is there a transition? -/
def Medium.hasFlux (m : Medium) (t : Nat) : Bool := m.next t == some t

/-- The PLL at a constant cell length `p` (41_pll.md R153): the bounds are those of `SetClock(p)`, the period lies within them,
and the phase correction within what R146 can make of such periods: at most 0.65 of half the longest cell, and at least -0.65 of
its other half and that correction together. -/
structure Steady (p : Nat) (s : State) : Prop where
  bounds : s.pll.minPeriod = 3 * p / 4 ∧ s.pll.maxPeriod = 5 * p / 4
  period : s.pll.minPeriod ≤ s.pll.period ∧ s.pll.period ≤ s.pll.maxPeriod
  late : s.pll.phaseAdjust ≤ ((65 * (s.pll.maxPeriod / 2) / 100 : Nat) : Int)
  early : -((65 * ((s.pll.maxPeriod + 1) / 2 + 65 * (s.pll.maxPeriod / 2) / 100) / 100 : Nat) : Int) ≤ s.pll.phaseAdjust

/-- How far back the cells of a `Sync` can still reach: every read cell and every written cell moves this tick forward, a cell
of negative length included (41_pll.md R142, R146; log 6). -/
def State.reach (s : State) : Int := (s.cur.windowStart : Int) + min s.pll.phaseAdjust 0

/-- The end of the next cell to be decided, by the class of the state (41_pll.md R143, R150). -/
def cellEnd (s : State) : Nat := if s.seq.state.isRead then windowEnd s else s.cur.windowStart + s.pll.period

end Sys2Proof.Machine

namespace Sys2Proof

/-- The commands that clear CRCERR: every one but idle (10_state.md R44); and reset. -/
def Instr.clearsCrcError : Instr → Bool
  | .wrCmd0 v => !selects 0x07#8 0x00#8 v
  | .cmdFormat _ | .cmdWriteSector _ | .cmdReadHead _ | .cmdReadSector _ | .reset => true
  | .rdStat0 | .rdStat1 | .rdRsvd2 | .rdData | .rdRsvd4 _ | .wrCmd1 _ | .wrCmd2 _ | .wrData _ | .wrClk _ | .wrSect _
  | .wrTrck _ | .wrCell _ | .cmdIdle _ | .crcBit _ _ | .crcByte _ _ | .crcOfByte _ | .pllSetClock _ | .pllReadReset _
  | .pllGetNextBit _ | .pllWriteNextBit _ _ | .codecReadCell _ | .codecWriteCell _ | .wbufStart _ | .wbufCommit _
  | .wbufStop _ | .sync => false

end Sys2Proof
end

