-- ==== Sys2Proof/Certificates/Slice0/Obligations.lean ====
section
/-! DEFINITION. The statements for the provers. In each, `u` is the state after `Sync(now)` (43_sequencer.md R180), and an
equation with a record says the result, that nothing else changes, and that the operation completes. -/

open Sys2Proof Sys2Proof.Machine

/-! ### Encoding -/

/-- 30_encoding.md R100 to R103, R119. No bit of an encoding is dropped. The order of an engine operation's operand bytes is
the model's (log 3). -/
def Obligations.DecodeEncodeRoundTrip : Prop :=
  ∀ i : Instr, i.wf = true → decode (encode i).1 (encode i).2 = .ok i

/-- 30_encoding.md R101, R103: the decoder answers only operations that stand for a row of the table. -/
def Obligations.DecodingGivesWellFormedOperations : Prop :=
  ∀ (fmt : Format) (bytes : List Byte) (i : Instr), decode fmt bytes = .ok i → i.wf = true

/-- 30_encoding.md R100 to R103, R119: words written out from the tables: the sixteen bus operations, commands, engine
operations. -/
def Obligations.WrittenOutWordsDecode : Prop :=
  decode .bus [0b0000#8] = .ok .rdStat0 ∧ decode .bus [0b0001#8] = .ok .rdStat1 ∧ decode .bus [0b0010#8] = .ok .rdRsvd2 ∧
  decode .bus [0b0011#8] = .ok .rdData ∧ decode .bus [0b0100#8] = .ok (.rdRsvd4 4#3) ∧
  decode .bus [0b0101#8] = .ok (.rdRsvd4 5#3) ∧ decode .bus [0b0110#8] = .ok (.rdRsvd4 6#3) ∧
  decode .bus [0b0111#8] = .ok (.rdRsvd4 7#3) ∧
  (∀ v : Byte,
    decode .bus [0b1000#8, v] = .ok (.wrCmd0 v) ∧ decode .bus [0b1001#8, v] = .ok (.wrCmd1 v) ∧
    decode .bus [0b1010#8, v] = .ok (.wrCmd2 v) ∧ decode .bus [0b1011#8, v] = .ok (.wrData v) ∧
    decode .bus [0b1100#8, v] = .ok (.wrClk v) ∧ decode .bus [0b1101#8, v] = .ok (.wrSect v) ∧
    decode .bus [0b1110#8, v] = .ok (.wrTrck v) ∧ decode .bus [0b1111#8, v] = .ok (.wrCell v)) ∧
  decode .cmd0 [0b00100100#8] = .ok (.cmdFormat 0x24#8) ∧ decode .cmd0 [0b00000011#8] = .ok (.cmdReadSector 3#8) ∧
  decode .engine [0x01#8, 0xFF#8, 0xFF#8, 0xA1#8] = .ok (.crcByte 0xFFFF#16 0xA1#8) ∧
  decode .engine [0x05#8, 0x03#8, 0xE8#8] = .ok (.pllGetNextBit 1000) ∧ decode .engine [0x0D#8] = .ok .reset

/-- 30_encoding.md R103: each command's bytes, and that every byte is some command's. -/
def Obligations.EveryCommandByteSelectsOneCommand : Prop :=
  ∀ v : Byte,
    (decode .cmd0 [v] = .ok (.cmdIdle v) ↔ v &&& 0x07#8 = 0x00#8) ∧
    (decode .cmd0 [v] = .ok (.cmdFormat v) ↔ v &&& 0x07#8 = 0x04#8) ∧
    (decode .cmd0 [v] = .ok (.cmdWriteSector v) ↔ v &&& 0x03#8 = 0x01#8) ∧
    (decode .cmd0 [v] = .ok (.cmdReadHead v) ↔ v &&& 0x03#8 = 0x02#8) ∧
    (decode .cmd0 [v] = .ok (.cmdReadSector v) ↔ v &&& 0x03#8 = 0x03#8) ∧
    (v &&& 0x07#8 = 0x00#8 ∨ v &&& 0x07#8 = 0x04#8 ∨ v &&& 0x03#8 = 0x01#8 ∨ v &&& 0x03#8 = 0x02#8 ∨
      v &&& 0x03#8 = 0x03#8)

/-- 20_memory.md R72: an access outside the window, or wider than a byte, is refused. How such an access is presented is the
model's (log 3). -/
def Obligations.AccessesOutsideTheWindowAreRefused : Prop :=
  ∀ (s : State) (r : Request) (rest : List Request) (op : Byte) (lines : List Byte),
    s.inbox = r :: rest → r.fmt = .bus → r.bytes = op :: lines →
    (16 ≤ op.toNat → step s = .refused (.undecodable .offsetOutOfRange)) ∧
    (op.toNat < 16 → 2 ≤ lines.length → step s = .refused (.undecodable .tooWide))

/-! ### The step -/

/-- 20_memory.md R73, R84, 70_reset_and_hazards.md R331; log 2, log 10: a step performs the operation presented first, at its
tick and with its drive inputs in force; a tick before that of the operation before is refused, and so are bytes that are no
operation; with none presented nothing happens. A table word presented to any state runs in the very next step, at the
earliest tick the block accepts (log 1, log 2). -/
def Obligations.StepRunsTheDecodedOperation : Prop :=
  ∀ s : State,
    (s.inbox = [] → step s = .next s) ∧
    (∀ (r : Request) (rest : List Request), s.inbox = r :: rest →
      (∀ i, decode r.fmt r.bytes = .ok i →
        (s.now ≤ r.now →
          step s = exec i { s with now := r.now, drives := Memory.inputs s.drives r.inputs, inbox := rest }) ∧
        (r.now < s.now → step s = .refused .timeBackward)) ∧
      (∀ e, decode r.fmt r.bytes = .error e → step s = .refused (.undecodable e))) ∧
    ∀ (nbits w : Nat) (i : Instr), decodeTableWord nbits w = some i →
      step (s.withFetchWord nbits w) = exec i { s with now := max s.now s.cur.lastSync }

/-! ### Bus reads -/

/-- 45_bus_ops.md R246. -/
def Obligations.ReadingStatus0ReturnsItUnchanged : Prop :=
  ∀ s : State, s.cur.lastSync ≤ s.now →
    let u := sync s.now s
    exec .rdStat0 s = .next { u with out := .data u.regs.stat0 } ∧
    (s.regs.stat0 &&& 0x70#8 = 0#8 → u.regs.stat0 &&& 0x70#8 = 0#8) ∧
    exec .rdStat0 State.reset = .next { State.reset with out := .data 0x08#8 }

/-- 45_bus_ops.md R247, 10_state.md R54: the five signals of the selected drive, the motor bit, and no other change. -/
def Obligations.ReadingStatus1SamplesTheSelectedDrive : Prop :=
  ∀ s : State, s.cur.lastSync ≤ s.now →
    let u := sync s.now s
    ∃ b : Byte, exec .rdStat1 s = .next { u with out := .data b } ∧
      b.getLsbD 7 = false ∧ b.getLsbD 4 = u.regs.cmd2.getLsbD 2 ∧ b.getLsbD 0 = false ∧
      (u.regs.cmd2.getLsbD 0 = false → u.regs.cmd2.getLsbD 1 = false →
        b.getLsbD 6 = false ∧ b.getLsbD 5 = false ∧ b.getLsbD 3 = false ∧ b.getLsbD 2 = false ∧ b.getLsbD 1 = false) ∧
      ∀ d : Drive,
        (u.regs.cmd2.getLsbD 0 = true ∧ u.drives[0]? = some d) ∨
        (u.regs.cmd2.getLsbD 0 = false ∧ u.regs.cmd2.getLsbD 1 = true ∧ u.drives[1]? = some d) →
        b.getLsbD 6 = d.signals.index ∧ b.getLsbD 5 = d.signals.diskChanged ∧ b.getLsbD 3 = d.signals.track0 ∧
        b.getLsbD 2 = d.signals.writeProtected ∧ b.getLsbD 1 = d.signals.ready

/-- 45_bus_ops.md R248: the byte, and BYTE and DREQ cleared. -/
def Obligations.ReadingDataAcknowledgesTheByte : Prop :=
  ∀ s : State, s.cur.lastSync ≤ s.now →
    let u := sync s.now s
    exec .rdData s = .next { u with
      regs := { u.regs with stat0 := u.regs.stat0 &&& 0x7D#8 }
      out := .data u.regs.rdata }

/-- 45_bus_ops.md R249: some byte, and nothing but what `Sync` changes and the model's own counter of free bytes. -/
def Obligations.ReservedReadsAnswerSomeByte : Prop :=
  ∀ s : State, s.cur.lastSync ≤ s.now →
    let u := sync s.now s
    (∃ b n, exec .rdRsvd2 s = .next { u with out := .data b, freeCount := n }) ∧
    ∀ offset : BitVec 3, ∃ b n, exec (.rdRsvd4 offset) s = .next { u with out := .data b, freeCount := n }

/-! ### Bus writes -/

/-- 45_bus_ops.md R251, R254, R255, R256: the byte is stored after `Sync`, and nothing else changes. -/
def Obligations.SelectorWritesStoreTheByteOnly : Prop :=
  ∀ (s : State) (v : Byte), s.cur.lastSync ≤ s.now →
    let u := sync s.now s
    exec (.wrCmd1 v) s = .next { u with regs := { u.regs with cmd1 := v }, out := .nothing } ∧
    exec (.wrClk v) s = .next { u with regs := { u.regs with clk := v }, out := .nothing } ∧
    exec (.wrSect v) s = .next { u with regs := { u.regs with sect := v }, out := .nothing } ∧
    exec (.wrTrck v) s = .next { u with regs := { u.regs with trck := v }, out := .nothing }

/-- 45_bus_ops.md R253: the byte is stored, BYTE and DREQ cleared. -/
def Obligations.WritingDataSuppliesAByte : Prop :=
  ∀ (s : State) (v : Byte), s.cur.lastSync ≤ s.now →
    let u := sync s.now s
    exec (.wrData v) s = .next { u with
      regs := { u.regs with wdata := v, stat0 := u.regs.stat0 &&& 0x7D#8 }
      out := .nothing }

/-- 45_bus_ops.md R257, 41_pll.md R141. -/
def Obligations.WritingCellReprogramsTheClock : Prop :=
  ∀ (s : State) (v : Byte), s.cur.lastSync ≤ s.now →
    let u := sync s.now s
    let p := s.cfg.cellUnit * (v &&& s.cfg.cellMask).toNat
    exec (.wrCell v) s = .next { u with
      regs := { u.regs with cell := v }
      pll := { u.pll with period := p, minPeriod := 3 * p / 4, maxPeriod := 5 * p / 4, adjustBase := p / 20 }
      out := .nothing }

/-- 45_bus_ops.md R252: pending flux to the old drive, the level events at every write, the pulse on a rising STEP. With no
drive selected R252 sends the events nowhere; that they then stand in the trace tagged `none` is the model's choice (log
23). -/
def Obligations.WritingCmd2EmitsTheDriveEvents : Prop :=
  ∀ (s : State) (v : Byte), s.cur.lastSync ≤ s.now →
    let u := sync s.now s
    let drive := fun c : Byte => if c.getLsbD 0 = true then some 0 else if c.getLsbD 1 = true then some 1 else none
    let w := if drive u.regs.cmd2 ≠ drive v ∧ u.wbuf.start ≠ none then commit u.cur.windowStart u else u
    exec (.wrCmd2 v) s = .next { w with
      regs := { w.regs with cmd2 := v }
      events := u.events
        ++ [(drive v, .setSide (v.getLsbD 6)), (drive v, .setDirection (v.getLsbD 5)), (drive v, .setMotor (v.getLsbD 2))]
        ++ (if v.getLsbD 4 = true ∧ u.regs.cmd2.getLsbD 4 = false then [(drive v, .stepPulse)] else [])
      out := .nothing }

/-- 45_bus_ops.md R250: the write issues the command its byte selects, and rewrites `stat0` as a whole. That the command's row
performed as an operation of its own gives the same state, `Sync` included, is the model's reading (DEDUCED, log 4). -/
def Obligations.WritingCmd0IssuesTheSelectedCommand : Prop :=
  ∀ (s : State) (v : Byte), s.cur.lastSync ≤ s.now → (v &&& 0x03#8 = 0x02#8 → s.cfg.readHead = .loop) →
    ∃ i t, decode .cmd0 [v] = .ok i ∧ exec (.wrCmd0 v) s = .next t ∧ exec i s = .next t ∧ t.regs.cmd0 = v ∧
      t.regs.stat0 =
        (if v &&& 0x03#8 ≠ 0x00#8 then 0x00#8
         else if v.getLsbD 2 = true then 0x82#8
         else ((sync s.now s).regs.stat0 &&& 0x04#8) ||| 0x08#8)

/-! ### Commands; `f` is the state after `Sync` and the flush of a write in progress

43_sequencer.md R183 says of a command's start that `Sync(now)` has already run. That a command's row performed as an operation
of its own runs it first is the model's reading of it (DEDUCED, log 4), on which the statements of this section rest. -/

/-- 43_sequencer.md R183, R184; the `Sync` before them: log 4. -/
def Obligations.IdleCommandEndsWhatRuns : Prop :=
  ∀ (s : State) (v : Byte), s.cur.lastSync ≤ s.now →
    let u := sync s.now s
    let f := if u.wbuf.start = none then u else stopWriting u.cur.windowStart u
    exec (.cmdIdle v) s = .next { f with
      regs := { f.regs with cmd0 := v, stat0 := (f.regs.stat0 &&& 0x04#8) ||| 0x08#8 }
      seq := { state := .idle, byteCount := 0#16 }
      cur := { lastSync := s.now, windowStart := s.now }
      pll := { f.pll with phaseAdjust := 0, freqHist := 0#8 }
      codec := { f.codec with bitCount := 0, phase := false }
      out := .nothing }

/-- 43_sequencer.md R183, R185, R186, R187; the `Sync` before them: log 4. -/
def Obligations.SearchCommandsStartTheHeaderSearch : Prop :=
  ∀ (s : State) (v : Byte), s.cur.lastSync ≤ s.now →
    let u := sync s.now s
    let f := if u.wbuf.start = none then u else stopWriting u.cur.windowStart u
    let t : State := { f with
      regs := { f.regs with cmd0 := v, stat0 := 0x00#8 }
      seq := { state := .readWaitHeaderSync, byteCount := 0#16 }
      cur := { lastSync := s.now, windowStart := s.now }
      pll := { f.pll with phaseAdjust := 0, freqHist := 0#8 }
      codec := { f.codec with bitCount := 0, phase := false }
      out := .nothing }
    exec (.cmdWriteSector v) s = .next t ∧ exec (.cmdReadSector v) s = .next t ∧
    (s.cfg.readHead = .loop → exec (.cmdReadHead v) s = .next t)

/-- 43_sequencer.md R183, R188; 42_codec.md R168; the `Sync` before them: log 4. -/
def Obligations.FormatCommandStartsWritingAtOnce : Prop :=
  ∀ (s : State) (v : Byte), s.cur.lastSync ≤ s.now →
    let u := sync s.now s
    let f := if u.wbuf.start = none then u else stopWriting u.cur.windowStart u
    exec (.cmdFormat v) s = .next { f with
      regs := { f.regs with cmd0 := v, stat0 := 0x82#8 }
      seq := { state := .format, byteCount := 0#16 }
      cur := { lastSync := s.now, windowStart := s.now }
      pll := { f.pll with phaseAdjust := 0, freqHist := 0#8 }
      codec := { f.codec with bitCount := 0, phase := false }
      tx := { data := f.regs.wdata, clk := f.regs.clk,
              verb := decide (f.regs.wdata = 0xA1#8 ∧ f.regs.clk = 0x0A#8), prev := false }
      wbuf := { start := some s.now, ticks := [] }
      out := .nothing }

/-- 30_encoding.md R114: a build with READ_HEAD_POLICY = Refuse refuses mode 2; that CMD_READ_HEAD as an operation of its own is
refused as the write of its byte is, and that the command rows carry a tick at all, is the model's reading (DEDUCED, log 4).
70_reset_and_hazards.md R331: an operation whose tick lies before `last_sync`, or before that of the operation before, is
refused; how the operation before's tick is held is log 2. -/
def Obligations.UnsupportedAndBackwardOperationsAreRefused : Prop :=
  ∀ s : State,
    (s.cfg.readHead = .refuse → ∀ v : Byte, v &&& 0x03#8 = 0x02#8 →
      exec (.wrCmd0 v) s = .refused .unsupportedCommand ∧ exec (.cmdReadHead v) s = .refused .unsupportedCommand) ∧
    (s.now < s.cur.lastSync → ∀ i : Instr, i.external = true →
      (∃ r, exec i s = .refused r) ∧ (s.cfg.readHead = .loop → exec i s = .refused .timeBackward)) ∧
    ∀ (r : Request) (rest : List Request), s.inbox = r :: rest → r.now < s.now → ∃ e, step s = .refused e

/-- 70_reset_and_hazards.md R320: `Reset` on a running block, and `PowerOn`, which has nothing to bring up to date. -/
def Obligations.ResetFlushesThenClears : Prop :=
  (∀ (cfg : Config) (t0 : Nat),
    let p := State.powerOn cfg t0
    p.regs = State.reset.regs ∧ p.seq = State.reset.seq ∧ p.pll = State.reset.pll ∧ p.codec = State.reset.codec ∧
    p.tx = State.reset.tx ∧ p.wbuf = State.reset.wbuf ∧ p.cur = { lastSync := t0, windowStart := t0 }) ∧
  ∀ s : State, s.cur.lastSync ≤ s.now →
    let u := sync s.now s
    let f := if u.wbuf.start = none then u else stopWriting u.cur.windowStart u
    exec .reset s = .next { f with
      regs := State.reset.regs, seq := State.reset.seq, pll := State.reset.pll, codec := State.reset.codec
      tx := State.reset.tx, wbuf := State.reset.wbuf, cur := { lastSync := s.now, windowStart := s.now }
      out := .nothing }

/-- 10_state.md R62: the reset table, for a block that comes into being at any tick and for one that is reset; reset emits no
drive-control event. -/
def Obligations.ResetLeavesTheTableOfResetValues : Prop :=
  (∀ (s : State) (t : Nat),
    (∃ cfg, s = State.powerOn cfg t) ∨ (∃ r : State, r.now = t ∧ r.cur.lastSync ≤ t ∧ exec .reset r = .next s) →
    s.seq = { state := .idle, byteCount := 0#16 } ∧
    s.regs = { stat0 := 0x08#8, rdata := 0#8, wdata := 0#8, cmd0 := 0#8, cmd1 := 0#8, cmd2 := 0#8, clk := 0#8, sect := 0#8,
               trck := 0#8, cell := 0#8 } ∧
    s.cur = { lastSync := t, windowStart := t } ∧
    s.pll = { period := 0, minPeriod := 0, maxPeriod := 0, adjustBase := 0, phaseAdjust := 0, freqHist := 0#8 } ∧
    s.codec = { shiftReg := 0#16, dataReg := 0#8, clkReg := 0#8, crc := 0#16, phase := false, bitCount := 0 } ∧
    s.tx = { data := 0#8, clk := 0#8, verb := false, prev := false } ∧
    s.wbuf = { start := none, ticks := [] } ∧ s.regs.curDrive = none) ∧
  ∀ r s : State, exec .reset r = .next s → s.events = r.events

/-! ### The write-flux buffer and the medium -/

/-- 44_write_flux.md R231 where `write_start = never` and `t = window_start`; that the operation presented on its own does the
same in every other state and at every other tick is the model's choice (log 5). -/
def Obligations.WbufStartOpensTheInterval : Prop :=
  ∀ (s : State) (t : Nat),
    exec (.wbufStart t) s = .next { s with
      wbuf := { start := some t, ticks := [] }, pll := { s.pll with phaseAdjust := 0 }, out := .nothing }

/-- 44_write_flux.md R233, R234: both hand `[write_start, t)` to the medium in one call, or make none; a commit begins the next
interval at `t`, a stop ends the write. That they do so at every `t`, where the rules have `t = window_start`, is the model's
choice (log 5), and what the call then does at a `t` before `write_start` is log 21's. -/
def Obligations.CommitAndStopHandOverTheInterval : Prop :=
  ∀ (s : State) (t : Nat),
    (s.wbuf.start = none ∨ s.wbuf.start = some t →
      exec (.wbufCommit t) s = .next { s with out := .nothing } ∧
      exec (.wbufStop t) s = .next { s with wbuf := { start := none, ticks := [] }, out := .nothing }) ∧
    ∀ a, s.wbuf.start = some a → a ≠ t →
      let w : State := { s with
        drives := Memory.write s.drives s.regs.curDrive a t s.wbuf.ticks
        fluxCalls := s.fluxCalls ++ [{ drive := s.regs.curDrive, first := a, stop := t, flux := s.wbuf.ticks }]
        out := .nothing }
      exec (.wbufCommit t) s = .next { w with wbuf := { start := some t, ticks := [] } } ∧
      exec (.wbufStop t) s = .next { w with wbuf := { start := none, ticks := [] } }

/-- 20_memory.md R75, R77: the answer is the least transition at or after the question's tick, or never; a linear medium holds
the ticks of its set, a rotating one their images; no drive answers never. -/
def Obligations.EveryMediumAnswersItsLeastTransition : Prop :=
  (∀ (l : List Nat) (t : Nat), (Medium.linear l).wf = true → ((Medium.linear l).hasFlux t = true ↔ t ∈ l)) ∧
  (∀ (rev : Nat) (l : List Nat) (t : Nat), (Medium.rotating rev l).wf = true →
    ((Medium.rotating rev l).hasFlux t = true ↔ ∃ x ∈ l, ∃ k, t = x + k * rev)) ∧
  (∀ (m : Medium) (t : Nat), m.wf = true →
    (∀ x, m.next t = some x → t ≤ x ∧ m.hasFlux x = true ∧ ∀ y, t ≤ y → y < x → m.hasFlux y = false) ∧
    (m.next t = none → ∀ y, t ≤ y → m.hasFlux y = false)) ∧
  ∀ (s : State) (t : Nat),
    (s.regs.cmd2.getLsbD 0 = false → s.regs.cmd2.getLsbD 1 = false → nextTransition s t = none) ∧
    ∀ d : Drive,
      (s.regs.cmd2.getLsbD 0 = true ∧ s.drives[0]? = some d) ∨
      (s.regs.cmd2.getLsbD 0 = false ∧ s.regs.cmd2.getLsbD 1 = true ∧ s.drives[1]? = some d) →
      nextTransition s t = d.medium.next t

/-- 20_memory.md R76: with no drive a call has no effect; with one it reaches that drive's medium only, if its port takes
writes (log 9); inside the interval stand exactly the new transitions, outside it what stood before, on a medium that does not
repeat. -/
def Obligations.WriteFluxReplacesTheInterval : Prop :=
  (∀ (m : Memory) (a e : Nat) (new : List Nat),
    Memory.write m none a e new = m ∧
    ∀ k,
      (∀ j, j ≠ k → (Memory.write m (some k) a e new)[j]? = m[j]?) ∧
      ∀ d, m[k]? = some d →
        (Memory.write m (some k) a e new)[k]? =
          some (if d.accepts then { d with medium := d.medium.write a e new } else d)) ∧
  ∀ (m : Medium) (a e : Nat) (new : List Nat) (t : Nat), m.wf = true → (∀ rev l, m ≠ .rotating rev l) → a < e →
    new.Pairwise (· < ·) → (∀ x ∈ new, a ≤ x ∧ x < e) →
    (m.write a e new).hasFlux t = if a ≤ t ∧ t < e then decide (t ∈ new) else m.hasFlux t

/-- 20_memory.md R77: on a rotating medium a write acts on every image of its interval, and only the last revolution of a
longer one counts. -/
def Obligations.RotatingWriteReplacesTheImages : Prop :=
  ∀ (rev : Nat) (l : List Nat) (a e : Nat) (new : List Nat) (t : Nat), (Medium.rotating rev l).wf = true → a < e →
    new.Pairwise (· < ·) → (∀ x ∈ new, a ≤ x ∧ x < e) →
    (((Medium.rotating rev l).write a e new).hasFlux t = true ↔
      if e - a < rev then
        (∃ x ∈ new, x % rev = t % rev) ∨
        ((Medium.rotating rev l).hasFlux t = true ∧ ¬ ∃ k, a ≤ t % rev + k * rev ∧ t % rev + k * rev < e)
      else ∃ x ∈ new, e ≤ x + rev ∧ x % rev = t % rev)

/-- 44_write_flux.md R237: a write handed over in two parts leaves the medium as one call would (the unknown medium: log 9). -/
def Obligations.SplitWritesLeaveTheSameMedium : Prop :=
  ∀ (m : Medium) (a b c : Nat) (k l : List Nat) (t : Nat), m.wf = true → a < b → b < c →
    k.Pairwise (· < ·) → (∀ x ∈ k, a ≤ x ∧ x < b) → l.Pairwise (· < ·) → (∀ x ∈ l, b ≤ x ∧ x < c) →
    ((m.write a b k).write b c l).hasFlux t = (m.write a c (k ++ l)).hasFlux t

/-! ### The CRC engine -/

/-- 40_crc.md R130. -/
def Obligations.CrcBitIsTheSerialUpdate : Prop :=
  ∀ (s : State) (crc : Word16) (bit : Bool),
    exec (.crcBit crc bit) s = .next { s with
      out := .word (if crc.getLsbD 15 ≠ bit then (crc <<< 1) ^^^ 0x1021#16 else crc <<< 1) }

/-- 40_crc.md R131, R132: eight serial updates, most significant bit first; fed its own top byte the register just shifts; the
seeded form starts at 0xFFFF. -/
def Obligations.CrcByteFoldsEightBits : Prop :=
  (∀ (s : State) (c : Word16) (b : Byte),
    exec (.crcByte c b) s = .next { s with
      out := .word (crcBit (crcBit (crcBit (crcBit (crcBit (crcBit (crcBit (crcBit c (b.getLsbD 7)) (b.getLsbD 6))
        (b.getLsbD 5)) (b.getLsbD 4)) (b.getLsbD 3)) (b.getLsbD 2)) (b.getLsbD 1)) (b.getLsbD 0)) } ∧
    exec (.crcOfByte b) s = .next { s with out := .word (crcByte 0xFFFF#16 b) }) ∧
  crcByte 0x0000#16 0x00#8 = 0x0000#16 ∧ (∀ c : Word16, crcByte c (c.extractLsb' 8 8) = c.extractLsb' 0 8 ++ 0x00#8) ∧
  crcOfByte 0x00#8 = 0xE1F0#16 ∧ crcOfByte 0xFF#8 = 0xFF00#16 ∧ crcOfByte 0xA1#8 = 0x443B#16

/-- 40_crc.md R133: from any seed, a byte sequence followed by its CRC, high byte first, folds to zero. -/
def Obligations.CrcRoundTripGivesZero : Prop :=
  ∀ (seed : Word16) (bs : List Byte),
    let c := bs.foldl crcByte seed
    (bs ++ [c.extractLsb' 8 8, c.extractLsb' 0 8]).foldl crcByte seed = 0x0000#16

/-! ### The PLL -/

/-- 41_pll.md R140, R141: the phase is reset and the adapted period kept; the clock is set and the phase kept. That
PLL_READ_RESET presented on its own does so at a tick before `last_sync` too, where 10_state.md R35 and R38 have the cursors never
go back, is the model's choice (log 5). -/
def Obligations.PllSetUpOperations : Prop :=
  (∀ (s : State) (t : Nat),
    exec (.pllReadReset t) s = .next { s with
      cur := { lastSync := t, windowStart := t }, pll := { s.pll with phaseAdjust := 0, freqHist := 0#8 }, out := .nothing }) ∧
  ∀ (s : State) (p : Nat),
    exec (.pllSetClock p) s = .next { s with
      pll := { s.pll with period := p, minPeriod := 3 * p / 4, maxPeriod := 5 * p / 4, adjustBase := p / 20 }
      out := .nothing }

/-- 41_pll.md R142 to R148, within R142's precondition. In both outcomes the cursors move to the window's end, also where that end
lies before its start; that a build with NEGATIVE_WINDOW_POLICY = Hold leaves them standing there, as 10_state.md R35 and R38 have
it, is the model's choice (log 6). -/
def Obligations.ReadCellDecidesAndCorrects : Prop :=
  ∀ (s : State) (limit : Nat), 1 ≤ s.pll.period →
    let next : Int := (s.cur.windowStart : Int) + s.pll.period + s.pll.phaseAdjust
    let atEnd : Cursors := { lastSync := next.toNat, windowStart := next.toNat }
    let held : Cursors := { lastSync := s.cur.windowStart, windowStart := s.cur.windowStart }
    ((limit : Int) < next → exec (.pllGetNextBit limit) s = .next { s with out := .suspend }) ∧
    (next ≤ (limit : Int) → (∀ edge, nextTransition s s.cur.windowStart = some edge → next ≤ (edge : Int)) →
      exec (.pllGetNextBit limit) s = .next { s with
        pll := { s.pll with phaseAdjust := 0 }
        cur := if next < (s.cur.windowStart : Int) ∧ s.cfg.negativeWindow = .hold then held else atEnd
        out := .bit false }) ∧
    (next ≤ (limit : Int) → ∀ edge : Nat, nextTransition s s.cur.windowStart = some edge → (edge : Int) < next →
      let delta : Int := (edge : Int) - (next - ((s.pll.period / 2 : Nat) : Int))
      let h := s.pll.freqHist.toInt
      let hist : Int :=
        if delta < 0 then (if h < 0 then max (h - 1) (-128) else -1)
        else if 0 < delta then (if 0 < h then min (h + 1) 127 else 1)
        else 0
      let p : Int := (s.pll.period : Int) + ((s.pll.adjustBase : Int) * delta).tdiv (s.pll.period : Int)
      let period : Nat :=
        if s.cfg.freqThreshold < hist.natAbs then
          (if p < (s.pll.minPeriod : Int) then s.pll.minPeriod
           else if (s.pll.maxPeriod : Int) < p then s.pll.maxPeriod else p.toNat)
        else s.pll.period
      exec (.pllGetNextBit limit) s = .next { s with
        pll := { s.pll with
          phaseAdjust := (65 * delta).tdiv 100, freqHist := BitVec.ofInt 8 hist, period := period }
        cur := atEnd
        out := .bit true })

/-- 41_pll.md R153 (d), for every cell length, small ones too: at a constant cell length no window is of negative length. The PLL is
steady once its clock is set with no phase correction standing, every `Sync` keeps it so, and R153's side condition
`period + phase_adjust >= 0` holds of it. Where a cell-length write in mid-command breaks that condition, R142 and 90_conflicts.md
C5 put the window's end before its start: no transition lies in it, whatever the medium, the cell is 0, the phase correction is
cleared, and both cursors stand at that end. In a build with NEGATIVE_WINDOW_POLICY = Hold they stand where they stood, because
10_state.md R35 and R38 say that they never move backward; that parameter is the model's own (DESIGN CHOICE, log 6). With a zero
period, outside R142's precondition, that clause is the model's choice (log 5). -/
def Obligations.NegativeWindowIsEmptyAndNeedsAChangedCellLength : Prop :=
  (∀ (s t : State) (p : Nat), s.pll.phaseAdjust = 0 → exec (.pllSetClock p) s = .next t → Steady p t) ∧
  (∀ (s : State) (p now : Nat), Steady p s → Steady p (sync now s) ∧ s.pll.windowOk = true) ∧
  ∀ (s : State) (limit : Nat), (s.pll.period : Int) + s.pll.phaseAdjust < 0 →
    let next : Int := (s.cur.windowStart : Int) + s.pll.period + s.pll.phaseAdjust
    ((limit : Int) < next → exec (.pllGetNextBit limit) s = .next { s with out := .suspend }) ∧
    (next ≤ (limit : Int) →
      exec (.pllGetNextBit limit) s = .next { s with
        pll := { s.pll with phaseAdjust := 0 }
        cur :=
          match s.cfg.negativeWindow with
          | .follow => { lastSync := next.toNat, windowStart := next.toNat }
          | .hold => { lastSync := s.cur.windowStart, windowStart := s.cur.windowStart }
        out := .bit false })

/-- 41_pll.md R150 where `period >= 1` and a write is in progress; that the operation presented on its own does the same in every
other state is the model's choice (log 5). -/
def Obligations.WriteCellBuffersItsTransition : Prop :=
  ∀ (s : State) (bit : Bool) (limit : Nat),
    let e := s.cur.windowStart + s.pll.period
    let w : State := { s with
      wbuf := { s.wbuf with
        ticks := s.wbuf.ticks ++ (if bit then [s.cur.windowStart + s.pll.period / 2] else []) }
      cur := { lastSync := e, windowStart := e } }
    (limit < e → exec (.pllWriteNextBit bit limit) s = .next { s with out := .suspend }) ∧
    (e ≤ limit → w.wbuf.ticks.length ≠ s.cfg.wbufCap →
      exec (.pllWriteNextBit bit limit) s = .next { w with out := .done }) ∧
    (e ≤ limit → w.wbuf.ticks.length = s.cfg.wbufCap →
      exec (.pllWriteNextBit bit limit) s = .next { commit e w with out := .done })

/-- 41_pll.md R154: with every transition at a cell's centre, or one tick before it, every bit is 1 and the period stays. -/
def Obligations.PllIsStableWithoutJitter : Prop :=
  ∀ (s : State) (n limit p : Nat), s.pll.period = p → 2 ≤ p → s.pll.phaseAdjust = 0 → s.pll.freqHist = 0#8 →
    s.cur.windowStart + n * p ≤ limit →
    ((∀ k, k < n →
        nextTransition s (s.cur.windowStart + k * p) = some (s.cur.windowStart + k * p + (p - p / 2))) →
      ∃ t, readCells n limit s = some (List.replicate n true, t) ∧
        t.pll = s.pll ∧ t.cur.windowStart = s.cur.windowStart + n * p) ∧
    (s.pll.adjustBase < p → s.pll.minPeriod ≤ p → p ≤ s.pll.maxPeriod →
      (∀ k, k < n →
        nextTransition s (s.cur.windowStart + k * p) = some (s.cur.windowStart + k * p + (p - p / 2) - 1)) →
      ∃ t, readCells n limit s = some (List.replicate n true, t) ∧
        t.pll.period = p ∧ t.pll.phaseAdjust = 0 ∧ t.cur.windowStart = s.cur.windowStart + n * p)

/-! ### The codec -/

/-- 42_codec.md R160 to R166: the feeds, the comparison in either order, the realignment, the boundary. That the operation
presented on its own does the same in a state that is not read-type, or with a zero period, is the model's choice (log 5). -/
def Obligations.CodecReadCellFeedsAndCompares : Prop :=
  ∀ (s : State) (limit : Nat),
    let e := ((s.cur.windowStart : Int) + s.pll.period + s.pll.phaseAdjust).toNat
    (limit < e → exec (.codecReadCell limit) s = .next { s with out := .suspend }) ∧
    (e ≤ limit → ∃ b t, pllGetNextBit limit s = some (b, t) ∧
      let c : Codec := { t.codec with
        shiftReg := (t.codec.shiftReg <<< 1) ||| (if b then 1#16 else 0#16)
        dataReg := if t.codec.phase = true then (t.codec.dataReg <<< 1) ||| (if b then 1#8 else 0#8) else t.codec.dataReg
        clkReg := if t.codec.phase = true then t.codec.clkReg else (t.codec.clkReg <<< 1) ||| (if b then 1#8 else 0#8)
        crc := if t.codec.phase = true then crcBit t.codec.crc b else t.codec.crc
        phase := !t.codec.phase
        bitCount := if t.codec.bitCount = 15 then 0 else t.codec.bitCount + 1 }
      let matched := (c.dataReg = t.regs.wdata ∧ c.clkReg = t.regs.clk) ∨ (c.dataReg = t.regs.clk ∧ c.clkReg = t.regs.wdata)
      let synced : State := { t with
        codec := { c with dataReg := t.regs.wdata, clkReg := t.regs.clk, phase := false, bitCount := 0 }
        regs := { t.regs with stat0 := t.regs.stat0 ||| 0x01#8 } }
      let plain : State := { t with codec := c, regs := { t.regs with stat0 := t.regs.stat0 &&& 0xFE#8 } }
      (matched → exec (.codecReadCell limit) s = .next { readBoundary true synced with out := .done }) ∧
      (¬ matched → t.codec.bitCount = 15 →
        exec (.codecReadCell limit) s = .next { readBoundary false plain with out := .done }) ∧
      (¬ matched → t.codec.bitCount ≠ 15 → exec (.codecReadCell limit) s = .next { plain with out := .done }))

/-- 42_codec.md R167, R169, R171: the bit of the cell, `tx_prev`, the CRC in WRITE_SECTOR, the boundary. That the operation
presented on its own does the same in a state that is not write-type, or with no write in progress, is the model's choice (log
5). -/
def Obligations.CodecWriteCellSendsTheNextBit : Prop :=
  ∀ (s : State) (limit : Nat),
    let e := s.cur.windowStart + s.pll.period
    let k := s.codec.bitCount.val
    let i := 7 - k / 2
    let b :=
      if k % 2 = 1 then s.tx.data.getLsbD i
      else if s.regs.cmd0.getLsbD 5 = true then true
      else if s.tx.verb = true then s.tx.clk.getLsbD i
      else !(s.tx.prev || s.tx.data.getLsbD i)
    (limit < e → exec (.codecWriteCell limit) s = .next { s with out := .suspend }) ∧
    (e ≤ limit → ∃ t, pllWriteNextBit b limit s = some t ∧
      let w : State := { t with
        tx := { t.tx with prev := if k % 2 = 1 then b else t.tx.prev }
        codec := { t.codec with
          crc := if k % 2 = 1 ∧ s.seq.state = .writeSector then crcBit t.codec.crc b else t.codec.crc
          bitCount := s.codec.bitCount + 1 } }
      (k = 15 → exec (.codecWriteCell limit) s = .next { writeBoundary w with out := .done }) ∧
      (k ≠ 15 → exec (.codecWriteCell limit) s = .next { w with out := .done }))

/-- 42_codec.md R170: the sixteen cells sent for a byte, fed in step to a decoder in any state, give back the byte, the clock
bits that were sent, and the phase. -/
def Obligations.SentByteDecodesBack : Prop :=
  ∀ (fm : Bool) (t : Transmit) (c : Codec), c.phase = false →
    let r := (sendByte fm t).foldl Codec.feed c
    r.dataReg = t.data ∧ r.phase = false ∧ r.bitCount = c.bitCount ∧
    ∀ i, i < 8 → r.clkReg.getLsbD i =
      (if fm then true
       else if t.verb then t.clk.getLsbD i
       else !((if i = 7 then t.prev else t.data.getLsbD (i + 1)) || t.data.getLsbD i))

/-- 44_write_flux.md R232, 42_codec.md R169: without FM no two neighbouring cells are ones, across bytes too (the cell before
a byte's first is the last data bit, `tx_prev`). -/
def Obligations.MfmCellsAreNeverAdjacentOnes : Prop :=
  ∀ t : Transmit, (t.verb = true → t.data = 0xA1#8 ∧ t.clk = 0x0A#8) →
    ∀ k, ¬ ((t.prev :: sendByte false t)[k]? = some true ∧ (t.prev :: sendByte false t)[k + 1]? = some true)

/-! ### The sequencer at a byte boundary -/

/-- 43_sequencer.md R189. -/
def Obligations.HeaderSearchEndsAtAMark : Prop :=
  ∀ s : State, s.seq.state = .readWaitHeaderSync →
    readBoundary false s = s ∧
    readBoundary true s = { s with
      codec := { s.codec with crc := crcByte 0xFFFF#16 s.codec.dataReg }
      seq := { state := .readVerifyHeader, byteCount := 0#16 } }

/-- 43_sequencer.md R190: the nine checks, the silent restart, and where a good header leads. -/
def Obligations.HeaderVerificationChecksEachByte : Prop :=
  ∀ (s : State) (synced : Bool), s.seq.state = .readVerifyHeader → s.seq.byteCount.toNat ≤ 8 →
    let n := s.seq.byteCount.toNat + 1
    let d := s.codec.dataReg
    let ok :=
      if n ≤ 2 then synced = true
      else if n = 3 then d = 0xFE#8
      else if n = 4 then d = s.regs.trck
      else if n = 5 then d.getLsbD 0 = s.regs.cmd1.getLsbD 4
      else if n = 6 then d = s.regs.sect
      else if n = 7 then d.extractLsb' 0 2 = s.regs.cmd1.extractLsb' 5 2
      else if n = 8 then True
      else s.codec.crc = 0#16
    (¬ ok → readBoundary synced s = { s with
      seq := { state := .readWaitHeaderSync, byteCount := 0#16 }, conditions := s.conditions ++ [.protocolMiss] }) ∧
    (ok → n ≠ 9 → readBoundary synced s = { s with seq := { s.seq with byteCount := s.seq.byteCount + 1 } }) ∧
    (ok → n = 9 → readBoundary synced s = { s with
      seq := {
        state := if s.regs.cmd0.extractLsb' 0 2 = 1#2 then .writeSkipGap
                 else if s.regs.cmd0.extractLsb' 0 2 = 3#2 then .readSkipGap else .readWaitHeaderSync
        byteCount := 0#16 } })

/-- 43_sequencer.md R193, R194: 27 bytes before the sector search, 22 before writing starts at the read cursor. -/
def Obligations.GapsAreCountedInBytes : Prop :=
  ∀ (s : State) (synced : Bool),
    let counted : State := { s with seq := { s.seq with byteCount := s.seq.byteCount + 1 } }
    (s.seq.state = .readSkipGap →
      (s.seq.byteCount = 26#16 →
        readBoundary synced s = { s with seq := { state := .readWaitSectorSync, byteCount := 0#16 } }) ∧
      (s.seq.byteCount ≠ 26#16 → readBoundary synced s = counted)) ∧
    (s.seq.state = .writeSkipGap →
      (s.seq.byteCount = 21#16 → readBoundary synced s = { s with
        seq := { state := .writeSectorSync, byteCount := 0#16 }
        codec := { s.codec with bitCount := 0 }
        regs := { s.regs with stat0 := s.regs.stat0 &&& 0xFE#8 }
        pll := { s.pll with phaseAdjust := 0 }
        wbuf := { start := some s.cur.windowStart, ticks := [] }
        tx := { data := 0x00#8, clk := 0x00#8, verb := false, prev := false } }) ∧
      (s.seq.byteCount ≠ 21#16 → readBoundary synced s = counted))

/-- 43_sequencer.md R195, R196: the sector search with its time-out, and the data mark. -/
def Obligations.SectorSearchTimesOutOrFindsTheDataMark : Prop :=
  ∀ s : State,
    let counted : State := { s with seq := { s.seq with byteCount := s.seq.byteCount + 1 } }
    let missed : State := { s with
      seq := { state := .readWaitHeaderSync, byteCount := 0#16 }, conditions := s.conditions ++ [.protocolMiss] }
    (s.seq.state = .readWaitSectorSync →
      readBoundary true s = { s with
        codec := { s.codec with crc := crcByte 0xFFFF#16 s.codec.dataReg }
        seq := { state := .readVerifySector, byteCount := 0#16 } } ∧
      (s.seq.byteCount = 41#16 → readBoundary false s = missed) ∧
      (s.seq.byteCount ≠ 41#16 → readBoundary false s = counted)) ∧
    (s.seq.state = .readVerifySector → ∀ synced : Bool,
      (s.seq.byteCount = 2#16 → s.codec.dataReg = 0xFB#8 →
        readBoundary synced s = { s with seq := { state := .read, byteCount := 0#16 } }) ∧
      (s.seq.byteCount = 2#16 → s.codec.dataReg ≠ 0xFB#8 → readBoundary synced s = missed) ∧
      (s.seq.byteCount ≠ 2#16 → readBoundary synced s = counted))

/-- 43_sequencer.md R197, R198, R199: publication, overrun, completion. Which conditions stand in the trace, and in what order, is
the model's choice (log 16): an overrun under the policy Continue records none, and a CRC error stands before the overrun. -/
def Obligations.ReadPublishesOverrunsOrCompletes : Prop :=
  ∀ (s : State) (synced : Bool), s.seq.state = .read → s.seq.byteCount.toNat ≤ 1025 →
    let n := s.seq.byteCount.toNat + 1
    let size := 128 * 2 ^ (s.regs.cmd1.extractLsb' 5 2).toNat
    let bad := s.codec.crc ≠ 0#16
    let counted : Sequencer := { state := .read, byteCount := s.seq.byteCount + 1 }
    (n ≤ size → s.regs.stat0.getLsbD 1 = true → s.cfg.readOverrun = .abort →
      readBoundary synced s = { s with
        regs := { s.regs with stat0 := s.regs.stat0 ||| (if bad then 0x0C#8 else 0x08#8) }
        seq := { state := .readWaitHeaderSync, byteCount := 0#16 }
        conditions := s.conditions ++ (if bad then [.crcError] else []) ++ [.readOverrun] }) ∧
    (n ≤ size → s.regs.stat0.getLsbD 1 = false ∨ s.cfg.readOverrun = .proceed →
      readBoundary synced s = { s with
        regs := { s.regs with rdata := s.codec.dataReg, stat0 := s.regs.stat0 ||| 0x82#8 }, seq := counted }) ∧
    (n = size + 1 → readBoundary synced s = { s with seq := counted }) ∧
    (size + 2 ≤ n → readBoundary synced s = { s with
      regs := { s.regs with stat0 := s.regs.stat0 ||| (if bad then 0x0C#8 else 0x08#8) }
      seq := { state := .idle, byteCount := 0#16 }
      conditions := s.conditions ++ (if bad then [.crcError] else []) })

/-- 43_sequencer.md R200, R201, R203 with 42_codec.md R168: what is sent next at a boundary of a write. -/
def Obligations.WriteBoundariesSupplyTheNextByte : Prop :=
  ∀ s : State,
    let counted : Sequencer := { s.seq with byteCount := s.seq.byteCount + 1 }
    let latched : Transmit := { s.tx with
      data := s.regs.wdata, clk := s.regs.clk, verb := decide (s.regs.wdata = 0xA1#8 ∧ s.regs.clk = 0x0A#8) }
    let asked : Regs := { s.regs with stat0 := s.regs.stat0 ||| 0x82#8 }
    let size := 128 * 2 ^ (s.regs.cmd1.extractLsb' 5 2).toNat
    (s.seq.state = .writeSectorSync →
      (s.seq.byteCount = 11#16 → writeBoundary s = { s with
        codec := { s.codec with crc := 0xFFFF#16 }, seq := { state := .writeSector, byteCount := 0#16 }
        tx := latched, regs := asked }) ∧
      (s.seq.byteCount ≠ 11#16 → writeBoundary s = { s with seq := counted })) ∧
    (s.seq.state = .writeSector → s.seq.byteCount.toNat ≤ 1027 →
      (size + 4 ≤ s.seq.byteCount.toNat + 1 → writeBoundary s = { s with
        seq := { state := .writeCrc, byteCount := 0#16 }
        tx := { s.tx with data := s.codec.crc.extractLsb' 8 8, verb := false } }) ∧
      (s.seq.byteCount.toNat + 1 < size + 4 → writeBoundary s = { s with seq := counted, tx := latched, regs := asked })) ∧
    (s.seq.state = .format → writeBoundary s = { s with tx := latched, regs := asked })

/-- 43_sequencer.md R202: the low CRC byte, then the end of the write. -/
def Obligations.WriteCrcSendsTheLowByteThenEnds : Prop :=
  ∀ s : State, s.seq.state = .writeCrc →
    (s.seq.byteCount = 0#16 → writeBoundary s = { s with
      seq := { s.seq with byteCount := 1#16 }, tx := { s.tx with data := s.codec.crc.extractLsb' 0 8 } }) ∧
    (s.seq.byteCount = 1#16 →
      let w := stopWriting s.cur.windowStart s
      writeBoundary s = { w with
        regs := { s.regs with stat0 := s.regs.stat0 ||| 0x08#8 }
        cur := { lastSync := s.cur.windowStart, windowStart := s.cur.windowStart }
        pll := { s.pll with phaseAdjust := 0, freqHist := 0#8 }
        seq := { state := .readWaitHeaderSync, byteCount := 0#16 }
        codec := { s.codec with bitCount := 0, phase := false } })

/-! ### Rules of the whole machine -/

/-- 43_sequencer.md R180: the loop, one turn at a time; and the operation SYNC. -/
def Obligations.SyncIsTheDrivingLoop : Prop :=
  (∀ s : State, s.cur.lastSync ≤ s.now → exec .sync s = .next { sync s.now s with out := .nothing }) ∧
  ∀ (s : State) (now : Nat), s.cur.lastSync = s.cur.windowStart →
    (now ≤ s.cur.lastSync → sync now s = s) ∧
    (s.cur.lastSync < now → s.seq.state = .idle ∨ s.pll.period = 0 →
      sync now s = { s with cur := { lastSync := now, windowStart := now } }) ∧
    (s.cur.lastSync < now → s.seq.state ≠ .idle → s.pll.period ≠ 0 →
      (s.seq.state.isRead = true →
        (codecReadCell now s = none → sync now s = s) ∧ ∀ t, codecReadCell now s = some t → sync now s = sync now t) ∧
      (s.seq.state.isRead = false →
        (codecWriteCell now s = none → sync now s = s) ∧ ∀ t, codecWriteCell now s = some t → sync now s = sync now t))

/-- 10_state.md R37, 43_sequencer.md R182: after `Sync(now)` no whole cell is left before `now`, and in IDLE or stalled the
cursors stand at `now`. -/
def Obligations.SyncLeavesNoWholeCell : Prop :=
  ∀ (s : State) (now : Nat), s.cur.lastSync = s.cur.windowStart → s.cur.lastSync ≤ now →
    let t := sync now s
    t.cur.lastSync = t.cur.windowStart ∧ t.cur.lastSync ≤ now ∧
    (t.seq.state = .idle ∨ t.pll.period = 0 → t.cur.lastSync = now) ∧
    (t.seq.state ≠ .idle → t.pll.period ≠ 0 → t.cur.lastSync = now ∨ now < cellEnd t)

/-- 43_sequencer.md R181: a second `Sync` at the same tick changes nothing, and an earlier one on the way makes no
difference. -/
def Obligations.SyncIsIdempotentAndComposes : Prop :=
  ∀ (s : State) (a b : Nat), s.cur.lastSync = s.cur.windowStart → s.cur.lastSync ≤ a → a ≤ b →
    sync a (sync a s) = sync a s ∧ sync b (sync a s) = sync b s

/-- 20_memory.md R84: the result of an operation is the same as if the block had been brought up to date in between. For the
command rows as operations of their own this rests on log 4. -/
def Obligations.PollingMakesNoDifference : Prop :=
  ∀ (i : Instr) (s : State) (a : Nat), i.external = true → s.cur.lastSync = s.cur.windowStart → s.cur.lastSync ≤ a →
    a ≤ s.now → exec i (sync a s) = exec i s

/-- 43_sequencer.md R204: a cell changes the sequencer's state only as the table says. -/
def Obligations.CellsMakeOnlyTheTransitionsOfTheTable : Prop :=
  ∀ (s t : State) (limit : Nat),
    exec (.codecReadCell limit) s = .next t ∨ exec (.codecWriteCell limit) s = .next t →
    t.seq.state = s.seq.state ∨ (s.seq.state, t.seq.state) ∈ cellTransitions

/-- 10_state.md R44: CRCERR, once set, stays through every operation but reset and the commands other than idle; those clear
it. -/
def Obligations.CrcErrorIsSticky : Prop :=
  ∀ (i : Instr) (s t : State), exec i s = .next t →
    (i.clearsCrcError = false → s.regs.stat0.getLsbD 2 = true → t.regs.stat0.getLsbD 2 = true) ∧
    (i.clearsCrcError = true → t.regs.stat0.getLsbD 2 = false)

/-- 10_state.md R21: of the engine operations only a read cell in READ changes `rdata`, and then to the byte just decoded,
with BYTE and DREQ set. -/
def Obligations.RdataChangesOnlyByPublication : Prop :=
  ∀ (i : Instr) (s t : State), i.external = false → exec i s = .next t → t.regs.rdata ≠ s.regs.rdata →
    (∃ limit, i = .codecReadCell limit) ∧ s.seq.state = .read ∧ t.regs.rdata = t.codec.dataReg ∧
    t.regs.stat0 &&& 0x82#8 = 0x82#8

/-- 10_state.md R61, 20_memory.md R73, 45_bus_ops.md R247: no operation changes the parameters, the tick at the time port, what
waits at the ports, or a drive's inputs: its five status signals, and whether its port takes writes (log 9, log 10). 45_bus_ops.md
R252, 70_reset_and_hazards.md R320: none but a command2 write emits a drive-control event. -/
def Obligations.ParametersAndPortsNeverChange : Prop :=
  ∀ (i : Instr) (s t : State), exec i s = .next t →
    t.cfg = s.cfg ∧ t.now = s.now ∧ t.inbox = s.inbox ∧
    t.drives.length = s.drives.length ∧
    (∀ (k : Nat) (d e : Drive), s.drives[k]? = some d → t.drives[k]? = some e →
      e.signals = d.signals ∧ e.accepts = d.accepts) ∧
    ((∀ v, i ≠ .wrCmd2 v) → t.events = s.events)

/-- 20_memory.md R75, R86: reading leaves every medium as it was and makes no call to one. -/
def Obligations.ReadCellsLeaveTheMediaAlone : Prop :=
  ∀ (s t : State) (limit : Nat),
    exec (.codecReadCell limit) s = .next t ∨ exec (.pllGetNextBit limit) s = .next t →
    t.drives = s.drives ∧ t.fluxCalls = s.fluxCalls

/-- 10_state.md R35, R37, R38: the cursors stay equal, and never move backward from a window that is not of negative length, nor in
a build that holds them over one. Where 41_pll.md R142 is followed over a window of negative length, which only a cell-length write
in mid-command makes, they go back at most to that window's end; that a build takes the one or the other is the model's choice
(log 6). The bare engine operation PLL_READ_RESET to an earlier tick is left aside: no rule invokes it so, and 41_pll.md R140 moves
the cursors there (log 5). -/
def Obligations.CursorsNeverMoveBackUnlessANegativeWindowIsFollowed : Prop :=
  ∀ (i : Instr) (s t : State), s.cur.lastSync = s.cur.windowStart → (∀ a, i = .pllReadReset a → s.cur.lastSync ≤ a) →
    exec i s = .next t →
    t.cur.lastSync = t.cur.windowStart ∧
    (s.cfg.negativeWindow = .hold ∨ 0 ≤ (s.pll.period : Int) + s.pll.phaseAdjust →
      s.cur.lastSync ≤ t.cur.lastSync ∧ s.cur.windowStart ≤ t.cur.windowStart) ∧
    (s.cur.windowStart : Int) + min 0 ((s.pll.period : Int) + s.pll.phaseAdjust) ≤ (t.cur.windowStart : Int)

/-- 20_memory.md R89: with no drive selected a read cell is 0 with no phase correction, and a commit changes no medium. That the
operation presented on its own does the same with a zero period, outside 41_pll.md R142's precondition, is the model's choice (log
5), and so is the build that holds the cursors over a window of negative length (log 6). -/
def Obligations.NoDriveReadsZerosAndDropsCommits : Prop :=
  ∀ s : State, s.regs.cmd2.getLsbD 0 = false → s.regs.cmd2.getLsbD 1 = false →
    (∀ limit, windowEnd s ≤ limit →
      exec (.pllGetNextBit limit) s = .next { s with
        pll := { s.pll with phaseAdjust := 0 }
        cur :=
          if windowEnd s < s.cur.windowStart ∧ s.cfg.negativeWindow = .hold then
            { lastSync := s.cur.windowStart, windowStart := s.cur.windowStart }
          else { lastSync := windowEnd s, windowStart := windowEnd s }
        out := .bit false }) ∧
    ∀ t, (commit t s).drives = s.drives

/-! ### Invariants -/

/-- Every step keeps `Inv`: the equal cursors, the reserved bits of `stat0` and END (which no rule sets, log 19), the bounds of the
period, the byte count of each state, a window that ends at a tick, and the canonical form of the media. -/
def Obligations.EveryStepKeepsInv : Prop :=
  ∀ s t : State, Inv s → step s = .next t → Inv t

/-- Every operation a consumer or the reset port can apply keeps `BlockInv`: a write is in progress exactly in the write-type
states, its buffer rises within its interval and has room, the PLL's bounds are those of the commanded cell length, and `last_sync` never
runs ahead of the time port. -/
def Obligations.ExternalStepsKeepBlockInv : Prop :=
  ∀ s t : State, BlockInv s → (∀ r ∈ s.inbox.head?, r.external = true) → step s = .next t → BlockInv t

/-- Reset meets both invariants, whatever the parameters within R10's bounds. -/
def Obligations.ResetMeetsTheInvariants : Prop :=
  Inv State.reset ∧ BlockInv State.reset ∧ ∀ (cfg : Config) (t0 : Nat), cfg.wf = true → BlockInv (State.powerOn cfg t0)
end

