-- ==== Sys2Proof/Laws/State.lean ====
section
/-! SUPPORT. For each update of the state, each field after it: true by unfolding once, so that no later proof unfolds an
update. The composed updates come down to these. -/

namespace Sys2Proof.Machine

section Fields

variable (s : State)

/-! withRegs -/

@[simp] theorem State.withRegs_cfg (r : Regs) : (s.withRegs r).cfg = s.cfg := rfl
@[simp] theorem State.withRegs_regs (r : Regs) : (s.withRegs r).regs = r := rfl
@[simp] theorem State.withRegs_seq (r : Regs) : (s.withRegs r).seq = s.seq := rfl
@[simp] theorem State.withRegs_cur (r : Regs) : (s.withRegs r).cur = s.cur := rfl
@[simp] theorem State.withRegs_pll (r : Regs) : (s.withRegs r).pll = s.pll := rfl
@[simp] theorem State.withRegs_codec (r : Regs) : (s.withRegs r).codec = s.codec := rfl
@[simp] theorem State.withRegs_tx (r : Regs) : (s.withRegs r).tx = s.tx := rfl
@[simp] theorem State.withRegs_wbuf (r : Regs) : (s.withRegs r).wbuf = s.wbuf := rfl
@[simp] theorem State.withRegs_drives (r : Regs) : (s.withRegs r).drives = s.drives := rfl
@[simp] theorem State.withRegs_now (r : Regs) : (s.withRegs r).now = s.now := rfl
@[simp] theorem State.withRegs_inbox (r : Regs) : (s.withRegs r).inbox = s.inbox := rfl
@[simp] theorem State.withRegs_out (r : Regs) : (s.withRegs r).out = s.out := rfl
@[simp] theorem State.withRegs_events (r : Regs) : (s.withRegs r).events = s.events := rfl
@[simp] theorem State.withRegs_fluxCalls (r : Regs) : (s.withRegs r).fluxCalls = s.fluxCalls := rfl
@[simp] theorem State.withRegs_conditions (r : Regs) : (s.withRegs r).conditions = s.conditions := rfl
@[simp] theorem State.withRegs_freeCount (r : Regs) : (s.withRegs r).freeCount = s.freeCount := rfl

/-! withSeq -/

@[simp] theorem State.withSeq_cfg (q : Sequencer) : (s.withSeq q).cfg = s.cfg := rfl
@[simp] theorem State.withSeq_regs (q : Sequencer) : (s.withSeq q).regs = s.regs := rfl
@[simp] theorem State.withSeq_seq (q : Sequencer) : (s.withSeq q).seq = q := rfl
@[simp] theorem State.withSeq_cur (q : Sequencer) : (s.withSeq q).cur = s.cur := rfl
@[simp] theorem State.withSeq_pll (q : Sequencer) : (s.withSeq q).pll = s.pll := rfl
@[simp] theorem State.withSeq_codec (q : Sequencer) : (s.withSeq q).codec = s.codec := rfl
@[simp] theorem State.withSeq_tx (q : Sequencer) : (s.withSeq q).tx = s.tx := rfl
@[simp] theorem State.withSeq_wbuf (q : Sequencer) : (s.withSeq q).wbuf = s.wbuf := rfl
@[simp] theorem State.withSeq_drives (q : Sequencer) : (s.withSeq q).drives = s.drives := rfl
@[simp] theorem State.withSeq_now (q : Sequencer) : (s.withSeq q).now = s.now := rfl
@[simp] theorem State.withSeq_inbox (q : Sequencer) : (s.withSeq q).inbox = s.inbox := rfl
@[simp] theorem State.withSeq_out (q : Sequencer) : (s.withSeq q).out = s.out := rfl
@[simp] theorem State.withSeq_events (q : Sequencer) : (s.withSeq q).events = s.events := rfl
@[simp] theorem State.withSeq_fluxCalls (q : Sequencer) : (s.withSeq q).fluxCalls = s.fluxCalls := rfl
@[simp] theorem State.withSeq_conditions (q : Sequencer) : (s.withSeq q).conditions = s.conditions := rfl
@[simp] theorem State.withSeq_freeCount (q : Sequencer) : (s.withSeq q).freeCount = s.freeCount := rfl

/-! withCursors -/

@[simp] theorem State.withCursors_cfg (t : Nat) : (s.withCursors t).cfg = s.cfg := rfl
@[simp] theorem State.withCursors_regs (t : Nat) : (s.withCursors t).regs = s.regs := rfl
@[simp] theorem State.withCursors_seq (t : Nat) : (s.withCursors t).seq = s.seq := rfl
@[simp] theorem State.withCursors_cur (t : Nat) : (s.withCursors t).cur = { lastSync := t, windowStart := t } := rfl
@[simp] theorem State.withCursors_pll (t : Nat) : (s.withCursors t).pll = s.pll := rfl
@[simp] theorem State.withCursors_codec (t : Nat) : (s.withCursors t).codec = s.codec := rfl
@[simp] theorem State.withCursors_tx (t : Nat) : (s.withCursors t).tx = s.tx := rfl
@[simp] theorem State.withCursors_wbuf (t : Nat) : (s.withCursors t).wbuf = s.wbuf := rfl
@[simp] theorem State.withCursors_drives (t : Nat) : (s.withCursors t).drives = s.drives := rfl
@[simp] theorem State.withCursors_now (t : Nat) : (s.withCursors t).now = s.now := rfl
@[simp] theorem State.withCursors_inbox (t : Nat) : (s.withCursors t).inbox = s.inbox := rfl
@[simp] theorem State.withCursors_out (t : Nat) : (s.withCursors t).out = s.out := rfl
@[simp] theorem State.withCursors_events (t : Nat) : (s.withCursors t).events = s.events := rfl
@[simp] theorem State.withCursors_fluxCalls (t : Nat) : (s.withCursors t).fluxCalls = s.fluxCalls := rfl
@[simp] theorem State.withCursors_conditions (t : Nat) : (s.withCursors t).conditions = s.conditions := rfl
@[simp] theorem State.withCursors_freeCount (t : Nat) : (s.withCursors t).freeCount = s.freeCount := rfl

/-! withPll -/

@[simp] theorem State.withPll_cfg (p : Pll) : (s.withPll p).cfg = s.cfg := rfl
@[simp] theorem State.withPll_regs (p : Pll) : (s.withPll p).regs = s.regs := rfl
@[simp] theorem State.withPll_seq (p : Pll) : (s.withPll p).seq = s.seq := rfl
@[simp] theorem State.withPll_cur (p : Pll) : (s.withPll p).cur = s.cur := rfl
@[simp] theorem State.withPll_pll (p : Pll) : (s.withPll p).pll = p := rfl
@[simp] theorem State.withPll_codec (p : Pll) : (s.withPll p).codec = s.codec := rfl
@[simp] theorem State.withPll_tx (p : Pll) : (s.withPll p).tx = s.tx := rfl
@[simp] theorem State.withPll_wbuf (p : Pll) : (s.withPll p).wbuf = s.wbuf := rfl
@[simp] theorem State.withPll_drives (p : Pll) : (s.withPll p).drives = s.drives := rfl
@[simp] theorem State.withPll_now (p : Pll) : (s.withPll p).now = s.now := rfl
@[simp] theorem State.withPll_inbox (p : Pll) : (s.withPll p).inbox = s.inbox := rfl
@[simp] theorem State.withPll_out (p : Pll) : (s.withPll p).out = s.out := rfl
@[simp] theorem State.withPll_events (p : Pll) : (s.withPll p).events = s.events := rfl
@[simp] theorem State.withPll_fluxCalls (p : Pll) : (s.withPll p).fluxCalls = s.fluxCalls := rfl
@[simp] theorem State.withPll_conditions (p : Pll) : (s.withPll p).conditions = s.conditions := rfl
@[simp] theorem State.withPll_freeCount (p : Pll) : (s.withPll p).freeCount = s.freeCount := rfl

/-! withCodec -/

@[simp] theorem State.withCodec_cfg (c : Codec) : (s.withCodec c).cfg = s.cfg := rfl
@[simp] theorem State.withCodec_regs (c : Codec) : (s.withCodec c).regs = s.regs := rfl
@[simp] theorem State.withCodec_seq (c : Codec) : (s.withCodec c).seq = s.seq := rfl
@[simp] theorem State.withCodec_cur (c : Codec) : (s.withCodec c).cur = s.cur := rfl
@[simp] theorem State.withCodec_pll (c : Codec) : (s.withCodec c).pll = s.pll := rfl
@[simp] theorem State.withCodec_codec (c : Codec) : (s.withCodec c).codec = c := rfl
@[simp] theorem State.withCodec_tx (c : Codec) : (s.withCodec c).tx = s.tx := rfl
@[simp] theorem State.withCodec_wbuf (c : Codec) : (s.withCodec c).wbuf = s.wbuf := rfl
@[simp] theorem State.withCodec_drives (c : Codec) : (s.withCodec c).drives = s.drives := rfl
@[simp] theorem State.withCodec_now (c : Codec) : (s.withCodec c).now = s.now := rfl
@[simp] theorem State.withCodec_inbox (c : Codec) : (s.withCodec c).inbox = s.inbox := rfl
@[simp] theorem State.withCodec_out (c : Codec) : (s.withCodec c).out = s.out := rfl
@[simp] theorem State.withCodec_events (c : Codec) : (s.withCodec c).events = s.events := rfl
@[simp] theorem State.withCodec_fluxCalls (c : Codec) : (s.withCodec c).fluxCalls = s.fluxCalls := rfl
@[simp] theorem State.withCodec_conditions (c : Codec) : (s.withCodec c).conditions = s.conditions := rfl
@[simp] theorem State.withCodec_freeCount (c : Codec) : (s.withCodec c).freeCount = s.freeCount := rfl

/-! withTx -/

@[simp] theorem State.withTx_cfg (t : Transmit) : (s.withTx t).cfg = s.cfg := rfl
@[simp] theorem State.withTx_regs (t : Transmit) : (s.withTx t).regs = s.regs := rfl
@[simp] theorem State.withTx_seq (t : Transmit) : (s.withTx t).seq = s.seq := rfl
@[simp] theorem State.withTx_cur (t : Transmit) : (s.withTx t).cur = s.cur := rfl
@[simp] theorem State.withTx_pll (t : Transmit) : (s.withTx t).pll = s.pll := rfl
@[simp] theorem State.withTx_codec (t : Transmit) : (s.withTx t).codec = s.codec := rfl
@[simp] theorem State.withTx_tx (t : Transmit) : (s.withTx t).tx = t := rfl
@[simp] theorem State.withTx_wbuf (t : Transmit) : (s.withTx t).wbuf = s.wbuf := rfl
@[simp] theorem State.withTx_drives (t : Transmit) : (s.withTx t).drives = s.drives := rfl
@[simp] theorem State.withTx_now (t : Transmit) : (s.withTx t).now = s.now := rfl
@[simp] theorem State.withTx_inbox (t : Transmit) : (s.withTx t).inbox = s.inbox := rfl
@[simp] theorem State.withTx_out (t : Transmit) : (s.withTx t).out = s.out := rfl
@[simp] theorem State.withTx_events (t : Transmit) : (s.withTx t).events = s.events := rfl
@[simp] theorem State.withTx_fluxCalls (t : Transmit) : (s.withTx t).fluxCalls = s.fluxCalls := rfl
@[simp] theorem State.withTx_conditions (t : Transmit) : (s.withTx t).conditions = s.conditions := rfl
@[simp] theorem State.withTx_freeCount (t : Transmit) : (s.withTx t).freeCount = s.freeCount := rfl

/-! withWbuf -/

@[simp] theorem State.withWbuf_cfg (w : WriteBuffer) : (s.withWbuf w).cfg = s.cfg := rfl
@[simp] theorem State.withWbuf_regs (w : WriteBuffer) : (s.withWbuf w).regs = s.regs := rfl
@[simp] theorem State.withWbuf_seq (w : WriteBuffer) : (s.withWbuf w).seq = s.seq := rfl
@[simp] theorem State.withWbuf_cur (w : WriteBuffer) : (s.withWbuf w).cur = s.cur := rfl
@[simp] theorem State.withWbuf_pll (w : WriteBuffer) : (s.withWbuf w).pll = s.pll := rfl
@[simp] theorem State.withWbuf_codec (w : WriteBuffer) : (s.withWbuf w).codec = s.codec := rfl
@[simp] theorem State.withWbuf_tx (w : WriteBuffer) : (s.withWbuf w).tx = s.tx := rfl
@[simp] theorem State.withWbuf_wbuf (w : WriteBuffer) : (s.withWbuf w).wbuf = w := rfl
@[simp] theorem State.withWbuf_drives (w : WriteBuffer) : (s.withWbuf w).drives = s.drives := rfl
@[simp] theorem State.withWbuf_now (w : WriteBuffer) : (s.withWbuf w).now = s.now := rfl
@[simp] theorem State.withWbuf_inbox (w : WriteBuffer) : (s.withWbuf w).inbox = s.inbox := rfl
@[simp] theorem State.withWbuf_out (w : WriteBuffer) : (s.withWbuf w).out = s.out := rfl
@[simp] theorem State.withWbuf_events (w : WriteBuffer) : (s.withWbuf w).events = s.events := rfl
@[simp] theorem State.withWbuf_fluxCalls (w : WriteBuffer) : (s.withWbuf w).fluxCalls = s.fluxCalls := rfl
@[simp] theorem State.withWbuf_conditions (w : WriteBuffer) : (s.withWbuf w).conditions = s.conditions := rfl
@[simp] theorem State.withWbuf_freeCount (w : WriteBuffer) : (s.withWbuf w).freeCount = s.freeCount := rfl

/-! answer -/

@[simp] theorem State.answer_cfg (o : Output) : (s.answer o).cfg = s.cfg := rfl
@[simp] theorem State.answer_regs (o : Output) : (s.answer o).regs = s.regs := rfl
@[simp] theorem State.answer_seq (o : Output) : (s.answer o).seq = s.seq := rfl
@[simp] theorem State.answer_cur (o : Output) : (s.answer o).cur = s.cur := rfl
@[simp] theorem State.answer_pll (o : Output) : (s.answer o).pll = s.pll := rfl
@[simp] theorem State.answer_codec (o : Output) : (s.answer o).codec = s.codec := rfl
@[simp] theorem State.answer_tx (o : Output) : (s.answer o).tx = s.tx := rfl
@[simp] theorem State.answer_wbuf (o : Output) : (s.answer o).wbuf = s.wbuf := rfl
@[simp] theorem State.answer_drives (o : Output) : (s.answer o).drives = s.drives := rfl
@[simp] theorem State.answer_now (o : Output) : (s.answer o).now = s.now := rfl
@[simp] theorem State.answer_inbox (o : Output) : (s.answer o).inbox = s.inbox := rfl
@[simp] theorem State.answer_out (o : Output) : (s.answer o).out = o := rfl
@[simp] theorem State.answer_events (o : Output) : (s.answer o).events = s.events := rfl
@[simp] theorem State.answer_fluxCalls (o : Output) : (s.answer o).fluxCalls = s.fluxCalls := rfl
@[simp] theorem State.answer_conditions (o : Output) : (s.answer o).conditions = s.conditions := rfl
@[simp] theorem State.answer_freeCount (o : Output) : (s.answer o).freeCount = s.freeCount := rfl

/-! emit -/

@[simp] theorem State.emit_cfg (d : Option Nat) (e : DriveEvent) : (s.emit d e).cfg = s.cfg := rfl
@[simp] theorem State.emit_regs (d : Option Nat) (e : DriveEvent) : (s.emit d e).regs = s.regs := rfl
@[simp] theorem State.emit_seq (d : Option Nat) (e : DriveEvent) : (s.emit d e).seq = s.seq := rfl
@[simp] theorem State.emit_cur (d : Option Nat) (e : DriveEvent) : (s.emit d e).cur = s.cur := rfl
@[simp] theorem State.emit_pll (d : Option Nat) (e : DriveEvent) : (s.emit d e).pll = s.pll := rfl
@[simp] theorem State.emit_codec (d : Option Nat) (e : DriveEvent) : (s.emit d e).codec = s.codec := rfl
@[simp] theorem State.emit_tx (d : Option Nat) (e : DriveEvent) : (s.emit d e).tx = s.tx := rfl
@[simp] theorem State.emit_wbuf (d : Option Nat) (e : DriveEvent) : (s.emit d e).wbuf = s.wbuf := rfl
@[simp] theorem State.emit_drives (d : Option Nat) (e : DriveEvent) : (s.emit d e).drives = s.drives := rfl
@[simp] theorem State.emit_now (d : Option Nat) (e : DriveEvent) : (s.emit d e).now = s.now := rfl
@[simp] theorem State.emit_inbox (d : Option Nat) (e : DriveEvent) : (s.emit d e).inbox = s.inbox := rfl
@[simp] theorem State.emit_out (d : Option Nat) (e : DriveEvent) : (s.emit d e).out = s.out := rfl
@[simp] theorem State.emit_events (d : Option Nat) (e : DriveEvent) : (s.emit d e).events = s.events ++ [(d, e)] := rfl
@[simp] theorem State.emit_fluxCalls (d : Option Nat) (e : DriveEvent) : (s.emit d e).fluxCalls = s.fluxCalls := rfl
@[simp] theorem State.emit_conditions (d : Option Nat) (e : DriveEvent) : (s.emit d e).conditions = s.conditions := rfl
@[simp] theorem State.emit_freeCount (d : Option Nat) (e : DriveEvent) : (s.emit d e).freeCount = s.freeCount := rfl

/-! raise -/

@[simp] theorem State.raise_cfg (c : Condition) : (s.raise c).cfg = s.cfg := rfl
@[simp] theorem State.raise_regs (c : Condition) : (s.raise c).regs = s.regs := rfl
@[simp] theorem State.raise_seq (c : Condition) : (s.raise c).seq = s.seq := rfl
@[simp] theorem State.raise_cur (c : Condition) : (s.raise c).cur = s.cur := rfl
@[simp] theorem State.raise_pll (c : Condition) : (s.raise c).pll = s.pll := rfl
@[simp] theorem State.raise_codec (c : Condition) : (s.raise c).codec = s.codec := rfl
@[simp] theorem State.raise_tx (c : Condition) : (s.raise c).tx = s.tx := rfl
@[simp] theorem State.raise_wbuf (c : Condition) : (s.raise c).wbuf = s.wbuf := rfl
@[simp] theorem State.raise_drives (c : Condition) : (s.raise c).drives = s.drives := rfl
@[simp] theorem State.raise_now (c : Condition) : (s.raise c).now = s.now := rfl
@[simp] theorem State.raise_inbox (c : Condition) : (s.raise c).inbox = s.inbox := rfl
@[simp] theorem State.raise_out (c : Condition) : (s.raise c).out = s.out := rfl
@[simp] theorem State.raise_events (c : Condition) : (s.raise c).events = s.events := rfl
@[simp] theorem State.raise_fluxCalls (c : Condition) : (s.raise c).fluxCalls = s.fluxCalls := rfl
@[simp] theorem State.raise_conditions (c : Condition) : (s.raise c).conditions = s.conditions ++ [c] := rfl
@[simp] theorem State.raise_freeCount (c : Condition) : (s.raise c).freeCount = s.freeCount := rfl

/-! writeFlux -/

@[simp] theorem State.writeFlux_cfg (a e : Nat) (l : List Nat) : (s.writeFlux a e l).cfg = s.cfg := rfl
@[simp] theorem State.writeFlux_regs (a e : Nat) (l : List Nat) : (s.writeFlux a e l).regs = s.regs := rfl
@[simp] theorem State.writeFlux_seq (a e : Nat) (l : List Nat) : (s.writeFlux a e l).seq = s.seq := rfl
@[simp] theorem State.writeFlux_cur (a e : Nat) (l : List Nat) : (s.writeFlux a e l).cur = s.cur := rfl
@[simp] theorem State.writeFlux_pll (a e : Nat) (l : List Nat) : (s.writeFlux a e l).pll = s.pll := rfl
@[simp] theorem State.writeFlux_codec (a e : Nat) (l : List Nat) : (s.writeFlux a e l).codec = s.codec := rfl
@[simp] theorem State.writeFlux_tx (a e : Nat) (l : List Nat) : (s.writeFlux a e l).tx = s.tx := rfl
@[simp] theorem State.writeFlux_wbuf (a e : Nat) (l : List Nat) : (s.writeFlux a e l).wbuf = s.wbuf := rfl
@[simp] theorem State.writeFlux_drives (a e : Nat) (l : List Nat) : (s.writeFlux a e l).drives = Memory.write s.drives s.regs.curDrive a e l := rfl
@[simp] theorem State.writeFlux_now (a e : Nat) (l : List Nat) : (s.writeFlux a e l).now = s.now := rfl
@[simp] theorem State.writeFlux_inbox (a e : Nat) (l : List Nat) : (s.writeFlux a e l).inbox = s.inbox := rfl
@[simp] theorem State.writeFlux_out (a e : Nat) (l : List Nat) : (s.writeFlux a e l).out = s.out := rfl
@[simp] theorem State.writeFlux_events (a e : Nat) (l : List Nat) : (s.writeFlux a e l).events = s.events := rfl
@[simp] theorem State.writeFlux_fluxCalls (a e : Nat) (l : List Nat) : (s.writeFlux a e l).fluxCalls = s.fluxCalls ++ [{ drive := s.regs.curDrive, first := a, stop := e, flux := l }] := rfl
@[simp] theorem State.writeFlux_conditions (a e : Nat) (l : List Nat) : (s.writeFlux a e l).conditions = s.conditions := rfl
@[simp] theorem State.writeFlux_freeCount (a e : Nat) (l : List Nat) : (s.writeFlux a e l).freeCount = s.freeCount := rfl

/-! latch -/

@[simp] theorem State.latch_cfg (r : Request) (rest : List Request) : (s.latch r rest).cfg = s.cfg := rfl
@[simp] theorem State.latch_regs (r : Request) (rest : List Request) : (s.latch r rest).regs = s.regs := rfl
@[simp] theorem State.latch_seq (r : Request) (rest : List Request) : (s.latch r rest).seq = s.seq := rfl
@[simp] theorem State.latch_cur (r : Request) (rest : List Request) : (s.latch r rest).cur = s.cur := rfl
@[simp] theorem State.latch_pll (r : Request) (rest : List Request) : (s.latch r rest).pll = s.pll := rfl
@[simp] theorem State.latch_codec (r : Request) (rest : List Request) : (s.latch r rest).codec = s.codec := rfl
@[simp] theorem State.latch_tx (r : Request) (rest : List Request) : (s.latch r rest).tx = s.tx := rfl
@[simp] theorem State.latch_wbuf (r : Request) (rest : List Request) : (s.latch r rest).wbuf = s.wbuf := rfl
@[simp] theorem State.latch_drives (r : Request) (rest : List Request) : (s.latch r rest).drives = Memory.inputs s.drives r.inputs := rfl
@[simp] theorem State.latch_now (r : Request) (rest : List Request) : (s.latch r rest).now = r.now := rfl
@[simp] theorem State.latch_inbox (r : Request) (rest : List Request) : (s.latch r rest).inbox = rest := rfl
@[simp] theorem State.latch_out (r : Request) (rest : List Request) : (s.latch r rest).out = s.out := rfl
@[simp] theorem State.latch_events (r : Request) (rest : List Request) : (s.latch r rest).events = s.events := rfl
@[simp] theorem State.latch_fluxCalls (r : Request) (rest : List Request) : (s.latch r rest).fluxCalls = s.fluxCalls := rfl
@[simp] theorem State.latch_conditions (r : Request) (rest : List Request) : (s.latch r rest).conditions = s.conditions := rfl
@[simp] theorem State.latch_freeCount (r : Request) (rest : List Request) : (s.latch r rest).freeCount = s.freeCount := rfl

/-! present -/

@[simp] theorem State.present_cfg (r : Request) : (s.present r).cfg = s.cfg := rfl
@[simp] theorem State.present_regs (r : Request) : (s.present r).regs = s.regs := rfl
@[simp] theorem State.present_seq (r : Request) : (s.present r).seq = s.seq := rfl
@[simp] theorem State.present_cur (r : Request) : (s.present r).cur = s.cur := rfl
@[simp] theorem State.present_pll (r : Request) : (s.present r).pll = s.pll := rfl
@[simp] theorem State.present_codec (r : Request) : (s.present r).codec = s.codec := rfl
@[simp] theorem State.present_tx (r : Request) : (s.present r).tx = s.tx := rfl
@[simp] theorem State.present_wbuf (r : Request) : (s.present r).wbuf = s.wbuf := rfl
@[simp] theorem State.present_drives (r : Request) : (s.present r).drives = s.drives := rfl
@[simp] theorem State.present_now (r : Request) : (s.present r).now = s.now := rfl
@[simp] theorem State.present_inbox (r : Request) : (s.present r).inbox = r :: s.inbox := rfl
@[simp] theorem State.present_out (r : Request) : (s.present r).out = s.out := rfl
@[simp] theorem State.present_events (r : Request) : (s.present r).events = s.events := rfl
@[simp] theorem State.present_fluxCalls (r : Request) : (s.present r).fluxCalls = s.fluxCalls := rfl
@[simp] theorem State.present_conditions (r : Request) : (s.present r).conditions = s.conditions := rfl
@[simp] theorem State.present_freeCount (r : Request) : (s.present r).freeCount = s.freeCount := rfl

end Fields

section Composed

variable (s : State)

@[simp] theorem State.enter_eq (q : SeqState) : s.enter q = s.withSeq { state := q, byteCount := 0#16 } := rfl
@[simp] theorem State.restart_eq : s.restart = s.withSeq { state := .readWaitHeaderSync, byteCount := 0#16 } := rfl
@[simp] theorem State.protocolMiss_eq :
    s.protocolMiss = (s.withSeq { state := .readWaitHeaderSync, byteCount := 0#16 }).raise .protocolMiss := rfl
@[simp] theorem State.countByte_eq : s.countByte = s.withSeq { s.seq with byteCount := s.seq.byteCount + 1 } := rfl
@[simp] theorem State.inState_eq (q : SeqState) : s.inState q = s.withSeq { s.seq with state := q } := rfl
@[simp] theorem State.setStat0_eq (v : Byte) : s.setStat0 v = s.withRegs { s.regs with stat0 := v } := rfl
@[simp] theorem State.setFlags_eq (m : Byte) :
    s.setFlags m = s.withRegs { s.regs with stat0 := s.regs.stat0 ||| m } := rfl
@[simp] theorem State.clearFlags_eq (m : Byte) :
    s.clearFlags m = s.withRegs { s.regs with stat0 := s.regs.stat0 &&& ~~~m } := rfl
@[simp] theorem State.setFree_eq : s.setFree = s.withRegs { s.regs with stat0 := s.regs.stat0 ||| maskFREE } := rfl
@[simp] theorem State.requestByte_eq :
    s.requestByte = s.withRegs { s.regs with stat0 := s.regs.stat0 ||| (maskBYTE ||| maskDREQ) } := rfl
@[simp] theorem State.byteAnswered_eq :
    s.byteAnswered = s.withRegs { s.regs with stat0 := s.regs.stat0 &&& ~~~(maskBYTE ||| maskDREQ) } := rfl
@[simp] theorem State.setSync_eq (b : Bool) :
    s.setSync b =
      s.withRegs { s.regs with stat0 := if b then s.regs.stat0 ||| maskSYNC else s.regs.stat0 &&& ~~~maskSYNC } := by
  cases b <;> rfl
@[simp] theorem setClock_eq (p : Nat) : setClock p s = s.withPll (s.pll.setClock p) := rfl
@[simp] theorem pllReadReset_eq (t : Nat) :
    pllReadReset t s = (s.withPll { s.pll with phaseAdjust := 0, freqHist := 0#8 }).withCursors t := rfl
@[simp] theorem startWriting_eq (t : Nat) :
    startWriting t s = (s.withWbuf { start := some t, ticks := [] }).withPll { s.pll with phaseAdjust := 0 } := rfl
@[simp] theorem latchTx_eq :
    latchTx s =
      (s.withTx { s.tx with
        data := s.regs.wdata, clk := s.regs.clk, verb := s.regs.wdata == markData && s.regs.clk == markClock }).withRegs
        { s.regs with stat0 := s.regs.stat0 ||| (maskBYTE ||| maskDREQ) } := rfl
@[simp] theorem publish_eq :
    publish s =
      s.withRegs { s.regs with rdata := s.codec.dataReg, stat0 := s.regs.stat0 ||| (maskBYTE ||| maskDREQ) } := rfl
@[simp] theorem writeRegs_eq (f : Regs → Regs) : writeRegs f s = (s.withRegs (f s.regs)).answer .nothing := rfl

end Composed

end Sys2Proof.Machine
end

