-- ==== Sys2Proof/Laws/Memory.lean ====
section
/-! SUPPORT. The media: what adding ticks to a rising list does, and that every memory operation keeps the canonical form. -/

namespace Sys2Proof.Machine

theorem mem_insertTick (t x : Nat) (l : List Nat) : x ∈ insertTick t l ↔ x = t ∨ x ∈ l := by
  induction l with
  | nil => simp [insertTick]
  | cons y ys ih =>
    simp only [insertTick]
    split
    · simp
    · split
      · rename_i _ h
        subst h
        simp
      · simp only [List.mem_cons, ih]
        tauto

theorem insertTick_rising (t : Nat) {l : List Nat} (h : l.Pairwise (· < ·)) :
    (insertTick t l).Pairwise (· < ·) := by
  induction l with
  | nil => simp [insertTick]
  | cons y ys ih =>
    rw [List.pairwise_cons] at h
    simp only [insertTick]
    split
    · rename_i hty
      refine List.pairwise_cons.2 ⟨fun z hz => ?_, List.pairwise_cons.2 h⟩
      rcases List.mem_cons.1 hz with rfl | hz
      · exact hty
      · exact lt_trans hty (h.1 z hz)
    · split
      · exact List.pairwise_cons.2 h
      · refine List.pairwise_cons.2 ⟨fun z hz => ?_, ih h.2⟩
        rcases (mem_insertTick t z ys).1 hz with rfl | hz
        · omega
        · exact h.1 z hz

theorem mem_mergeTicks (x : Nat) (new : List Nat) (l : List Nat) : x ∈ mergeTicks l new ↔ x ∈ l ∨ x ∈ new := by
  induction new generalizing l with
  | nil => simp [mergeTicks]
  | cons y ys ih =>
    have h : mergeTicks l (y :: ys) = mergeTicks (insertTick y l) ys := rfl
    rw [h, ih, mem_insertTick, List.mem_cons]
    tauto

theorem mergeTicks_rising (new : List Nat) {l : List Nat} (h : l.Pairwise (· < ·)) :
    (mergeTicks l new).Pairwise (· < ·) := by
  induction new generalizing l with
  | nil => exact h
  | cons y ys ih => exact ih (insertTick_rising y h)

/-- Two rising lists with the same members are the same list: the canonical form makes equal media equal data. -/
theorem rising_ext {l k : List Nat} (hl : l.Pairwise (· < ·)) (hk : k.Pairwise (· < ·))
    (h : ∀ x, x ∈ l ↔ x ∈ k) : l = k :=
  List.Perm.eq_of_pairwise (le := (· < ·)) (fun _ _ _ _ hab hba => absurd hab (lt_asymm hba)) hl hk
    ((List.perm_ext_iff_of_nodup (hl.imp (fun h => ne_of_lt h)) (hk.imp (fun h => ne_of_lt h))).2 h)

theorem rotatingWrite_wf {rev : Nat} {l : List Nat} (hrev : 1 ≤ rev) (hl : l.Pairwise (· < ·)) (hlt : ∀ x ∈ l, x < rev)
    (a e : Nat) (new : List Nat) :
    (rotatingWrite rev l a e new).Pairwise (· < ·) ∧ ∀ x ∈ rotatingWrite rev l a e new, x < rev := by
  unfold rotatingWrite
  split
  · refine ⟨mergeTicks_rising _ (hl.filter _), fun x hx => ?_⟩
    rcases (mem_mergeTicks _ _ _).1 hx with hx | hx
    · exact hlt x (List.mem_filter.1 hx).1
    · obtain ⟨y, -, rfl⟩ := List.mem_map.1 hx
      exact Nat.mod_lt _ hrev
  · refine ⟨mergeTicks_rising _ List.Pairwise.nil, fun x hx => ?_⟩
    rcases (mem_mergeTicks _ _ _).1 hx with hx | hx
    · cases hx
    · obtain ⟨y, -, rfl⟩ := List.mem_map.1 hx
      exact Nat.mod_lt _ hrev

theorem Medium.write_wf {m : Medium} (h : m.wf = true) (a e : Nat) (new : List Nat) : (m.write a e new).wf = true := by
  cases m with
  | linear l =>
    have hl : l.Pairwise (· < ·) := of_decide_eq_true h
    exact decide_eq_true (mergeTicks_rising new (hl.filter _))
  | rotating rev l =>
    simp only [Medium.wf, Bool.and_eq_true, decide_eq_true_eq, List.all_eq_true] at h
    obtain ⟨h1, h2⟩ := rotatingWrite_wf h.1.1 h.1.2 h.2 a e new
    simp only [Medium.write, Medium.wf, Bool.and_eq_true, decide_eq_true_eq, List.all_eq_true]
    exact ⟨⟨h.1.1, h1⟩, h2⟩
  | external id ws =>
    simp only [Medium.wf, Medium.write, List.all_cons, Bool.and_eq_true, decide_eq_true_eq] at *
    exact ⟨mergeTicks_rising new List.Pairwise.nil, h⟩

theorem Drive.write_wf {d : Drive} (h : d.medium.wf = true) (a e : Nat) (new : List Nat) :
    (d.write a e new).medium.wf = true := by
  unfold Drive.write
  split
  · exact Medium.write_wf h a e new
  · exact h

theorem Memory.wf_iff (m : Memory) : Memory.wf m = true ↔ ∀ d ∈ m, d.medium.wf = true := by
  simp [Memory.wf]

theorem Memory.modify_wf {m : Memory} (h : Memory.wf m = true) (k : Nat) {f : Drive → Drive}
    (hf : ∀ d, d.medium.wf = true → (f d).medium.wf = true) : Memory.wf (m.modify k f) = true := by
  rw [Memory.wf_iff] at *
  induction m generalizing k with
  | nil => cases k <;> simp
  | cons d ds ih =>
    cases k with
    | zero =>
      simp only [List.modify_zero_cons, List.mem_cons, forall_eq_or_imp] at *
      exact ⟨hf d h.1, h.2⟩
    | succ k =>
      simp only [List.modify_succ_cons, List.mem_cons, forall_eq_or_imp] at *
      exact ⟨h.1, ih h.2 k⟩

/-- `WriteFlux` keeps the canonical form. -/
theorem Memory.write_wf {m : Memory} (h : Memory.wf m = true) (d : Option Nat) (a e : Nat) (new : List Nat) :
    Memory.wf (Memory.write m d a e new) = true := by
  cases d with
  | none => exact h
  | some k => exact Memory.modify_wf h k (fun _ hd => Drive.write_wf hd a e new)

theorem Drive.input_wf {d : Drive} (h : d.medium.wf = true) {i : DriveInput} (hi : i.wf = true) :
    (d.input i).medium.wf = true := by
  cases i with
  | signals v => exact h
  | medium m => exact hi
  | accepts b => exact h

/-- So do the environment's inputs, when what they bring has it. -/
theorem Memory.inputs_wf {m : Memory} (h : Memory.wf m = true) {is : List (Nat × DriveInput)}
    (hi : ∀ i ∈ is, i.2.wf = true) : Memory.wf (Memory.inputs m is) = true := by
  induction is generalizing m with
  | nil => exact h
  | cons i is ih =>
    exact ih (Memory.modify_wf h i.1 (fun _ hd => Drive.input_wf hd (hi i (List.mem_cons_self ..))))
      (fun j hj => hi j (List.mem_cons_of_mem _ hj))

/-- The media at reset are in canonical form. -/
theorem reset_memory_wf : Memory.wf State.reset.drives = true := by decide

end Sys2Proof.Machine
end

