-- ==== Sys2Proof/Laws/Cells.lean ====
section
/-! SUPPORT. For each shared operation, once, everything it can do; what no rule of the block touches; and the induction over
the cells of a `Sync`. Later proofs cite these instead of unfolding the operations. -/

namespace Sys2Proof.Machine

/-! ### What the operations do -/

/-- `Commit` makes no call, or hands `[write_start, t)` to the medium (44_write_flux.md R233). -/
theorem commit_cases (t : Nat) (s : State) :
    ((s.wbuf.start = none ∨ s.wbuf.start = some t) ∧ commit t s = s) ∨
    ∃ a, s.wbuf.start = some a ∧ a ≠ t ∧
      commit t s = (s.writeFlux a t s.wbuf.ticks).withWbuf { start := some t, ticks := [] } := by
  unfold commit
  cases h : s.wbuf.start with
  | none => exact .inl ⟨.inl rfl, rfl⟩
  | some a =>
    by_cases hta : t = a
    · subst hta
      exact .inl ⟨.inr rfl, by simp⟩
    · exact .inr ⟨a, rfl, fun e => hta e.symm, by simp [hta]⟩

/-- The flush of a command write or a reset: nothing, or `StopWriting(window_start)`. -/
theorem flushWrite_cases (s : State) :
    (s.wbuf.start = none ∧ flushWrite s = s) ∨
    (s.wbuf.start.isSome = true ∧ flushWrite s = stopWriting s.cur.windowStart s) := by
  unfold flushWrite
  cases h : s.wbuf.start with
  | none => exact .inl ⟨rfl, by simp⟩
  | some a => exact .inr ⟨rfl, by simp⟩

/-- Suspend is exactly the window ending after the limit (41_pll.md R143). -/
theorem pllGetNextBit_eq_none (limit : Nat) (s : State) : pllGetNextBit limit s = none ↔ limit < windowEnd s := by
  unfold pllGetNextBit
  split
  · simpa
  · rename_i h
    split <;> simp [h]

/-- A decided read cell: no transition in the window, or one that corrects the PLL (41_pll.md R144, R145). -/
theorem pllGetNextBit_eq_some {limit : Nat} {s t : State} {b : Bool} (h : pllGetNextBit limit s = some (b, t)) :
    windowEnd s ≤ limit ∧
    ((edgeInWindow s = none ∧ b = false ∧ t = (s.withPll { s.pll with phaseAdjust := 0 }).withCursors (cellCursor s)) ∨
     ∃ edge, edgeInWindow s = some edge ∧ b = true ∧
       t = (s.withPll (s.pll.correct s.cfg (edgeDelta s edge))).withCursors (windowEnd s)) := by
  unfold pllGetNextBit at h
  split at h
  · cases h
  · rename_i hle
    refine ⟨Nat.le_of_not_lt hle, ?_⟩
    split at h
    · rename_i he
      simp only [Option.some.injEq, Prod.mk.injEq] at h
      exact .inl ⟨he, h.1.symm, h.2.symm⟩
    · rename_i edge he
      simp only [Option.some.injEq, Prod.mk.injEq] at h
      exact .inr ⟨edge, he, h.1.symm, h.2.symm⟩

/-- The deciding transition lies in the half-open window and is the medium's first at or after its start (41_pll.md R143). -/
theorem edgeInWindow_eq_some {s : State} {edge : Nat} :
    edgeInWindow s = some edge ↔ nextTransition s s.cur.windowStart = some edge ∧ edge < windowEnd s := by
  unfold edgeInWindow
  cases nextTransition s s.cur.windowStart with
  | none => simp
  | some e =>
    by_cases h : e < windowEnd s
    · simp only [h, if_true, Option.some.injEq]
      exact ⟨fun x => ⟨x, x ▸ h⟩, fun x => x.1⟩
    · simp only [h, if_false, Option.some.injEq, reduceCtorEq, false_iff, not_and]
      exact fun x => x ▸ h

/-- Suspend on the write side (41_pll.md R150). -/
theorem pllWriteNextBit_eq_none (bit : Bool) (limit : Nat) (s : State) :
    pllWriteNextBit bit limit s = none ↔ limit < s.cur.windowStart + s.pll.period := by
  simp only [pllWriteNextBit, ite_eq_left_iff, reduceCtorEq, imp_false, not_not]

/-- A written cell (41_pll.md R150). -/
theorem pllWriteNextBit_eq_some {bit : Bool} {limit : Nat} {s t : State} (h : pllWriteNextBit bit limit s = some t) :
    s.cur.windowStart + s.pll.period ≤ limit ∧
    t = commitIfFull (s.cur.windowStart + s.pll.period)
      ((appendCell bit s).withCursors (s.cur.windowStart + s.pll.period)) := by
  simp only [pllWriteNextBit] at h
  split at h
  · cases h
  · rename_i hle
    exact ⟨Nat.le_of_not_lt hle, (Option.some.inj h).symm⟩

theorem codecReadCell_eq_none (limit : Nat) (s : State) : codecReadCell limit s = none ↔ limit < windowEnd s := by
  rw [← pllGetNextBit_eq_none]
  unfold codecReadCell
  split
  · rename_i h
    simp [h]
  · rename_i h
    simp [h]

/-- A read cell is a PLL decision and what the codec makes of it (42_codec.md R164). -/
theorem codecReadCell_eq_some {limit : Nat} {s t : State} (h : codecReadCell limit s = some t) :
    ∃ b u, pllGetNextBit limit s = some (b, u) ∧ t = decodedBit b u := by
  unfold codecReadCell at h
  split at h
  · cases h
  · rename_i b u hp
    exact ⟨b, u, hp, (Option.some.inj h).symm⟩

theorem codecWriteCell_eq_none (limit : Nat) (s : State) :
    codecWriteCell limit s = none ↔ limit < s.cur.windowStart + s.pll.period := by
  rw [← pllWriteNextBit_eq_none (nextCellBit s)]
  unfold codecWriteCell
  split
  · rename_i h
    simp [h]
  · rename_i h
    simp [h]

/-- A written cell is a PLL cell and what the codec makes of it (42_codec.md R167). -/
theorem codecWriteCell_eq_some {limit : Nat} {s t : State} (h : codecWriteCell limit s = some t) :
    ∃ u, pllWriteNextBit (nextCellBit s) limit s = some u ∧
      t = sentBit s.codec.bitCount (nextCellBit s) s.seq.state u := by
  unfold codecWriteCell at h
  split at h
  · cases h
  · rename_i u hp
    exact ⟨u, hp, (Option.some.inj h).symm⟩

/-- An operation with a `now` that is not before `last_sync` answers. -/
theorem afterSync_of_le {act : State → State} {s : State} (h : s.cur.lastSync ≤ s.now) :
    afterSync act s = .next (act (sync s.now s)) := by
  simp [afterSync, Nat.not_lt.2 h]

theorem afterSync_of_lt {act : State → State} {s : State} (h : s.now < s.cur.lastSync) :
    afterSync act s = .refused .timeBackward := by
  simp [afterSync, h]

/-- When an operation with a `now` answers, and what. -/
theorem afterSync_eq_next {act : State → State} {s t : State} (h : afterSync act s = .next t) :
    s.cur.lastSync ≤ s.now ∧ t = act (sync s.now s) := by
  by_cases hlt : s.now < s.cur.lastSync
  · rw [afterSync_of_lt hlt] at h
    cases h
  · rw [afterSync_of_le (Nat.le_of_not_lt hlt)] at h
    exact ⟨Nat.le_of_not_lt hlt, (Host.Outcome.next.inj h).symm⟩

/-- When the operation presented first is taken, and what is then run (20_memory.md R73). -/
theorem take_eq_ok {s u : State} {r : Request} {rest : List Request} {i : Instr} (h : s.take r rest = .ok (i, u)) :
    r.decoded = .ok i ∧ s.now ≤ r.now ∧ u = s.latch r rest := by
  unfold State.take at h
  split at h
  · cases h
  · rename_i j hd
    split at h
    · cases h
    · rename_i hlt
      simp only [Except.ok.injEq, Prod.mk.injEq] at h
      exact ⟨h.1 ▸ hd, Nat.le_of_not_lt hlt, h.2.symm⟩

/-- A step that answers did nothing, or ran the operation presented first, at a tick not before the operation before. -/
theorem step_eq_next {s t : State} (h : step s = .next t) :
    (s.inbox = [] ∧ t = s) ∨
    ∃ r rest i, s.inbox = r :: rest ∧ r.decoded = .ok i ∧ s.now ≤ r.now ∧ exec i (s.latch r rest) = .next t := by
  unfold step at h
  cases hin : s.inbox with
  | nil =>
    simp only [hin, Host.Outcome.next.injEq] at h
    exact .inl ⟨rfl, h.symm⟩
  | cons r rest =>
    simp only [hin] at h
    split at h
    · cases h
    · rename_i i u hu
      obtain ⟨hd, hle, rfl⟩ := take_eq_ok hu
      exact .inr ⟨r, rest, i, rfl, hd, hle, h⟩

/-! ### The induction over the cells of a `Sync` -/

theorem syncLoop_keeps {P : State → Prop} {now : Nat}
    (hcell : ∀ s t, P s → s.seq.state ≠ .idle → s.pll.period ≠ 0 → s.cur.lastSync < now → syncCell now s = some t → P t)
    (hstall : ∀ s, P s → s.seq.state = .idle ∨ s.pll.period = 0 → s.cur.lastSync < now → P (s.withCursors now)) :
    ∀ fuel s, P s → P (syncLoop fuel now s) := by
  intro fuel
  induction fuel with
  | zero => exact fun s h => h
  | succ fuel ih =>
    intro s h
    unfold syncLoop
    split
    · rename_i hlt
      split
      · rename_i hst
        exact hstall s h hst hlt
      · rename_i hst
        rw [not_or] at hst
        split
        · exact h
        · rename_i t ht
          exact ih t (hcell s t h hst.1 hst.2 hlt ht)
    · exact h

/-- What every cell keeps, and a move of the cursors keeps, `Sync` keeps (43_sequencer.md R180). -/
theorem sync_keeps {P : State → Prop} {now : Nat}
    (hcell : ∀ s t, P s → s.seq.state ≠ .idle → s.pll.period ≠ 0 → s.cur.lastSync < now → syncCell now s = some t → P t)
    (hstall : ∀ s, P s → s.seq.state = .idle ∨ s.pll.period = 0 → s.cur.lastSync < now → P (s.withCursors now))
    {s : State} (h : P s) : P (sync now s) :=
  syncLoop_keeps hcell hstall _ s h

/-! ### What no rule of the block touches -/

theorem Drive.write_inputsOf (d : Drive) (a e : Nat) (new : List Nat) : (d.write a e new).inputsOf = d.inputsOf := by
  unfold Drive.write
  split <;> rfl

/-- A `WriteFlux` reaches the medium alone. -/
theorem Memory.write_inputsOf (m : Memory) (d : Option Nat) (a e : Nat) (new : List Nat) :
    (Memory.write m d a e new).map Drive.inputsOf = m.map Drive.inputsOf := by
  cases d with
  | none => rfl
  | some k =>
    simp only [Memory.write]
    induction m generalizing k with
    | nil => cases k <;> rfl
    | cons x xs ih =>
      cases k with
      | zero => simp [Drive.write_inputsOf]
      | succ k => simp [ih k]

theorem PortsKept.refl (s : State) : PortsKept s s := ⟨rfl, rfl, rfl, rfl, rfl, rfl, rfl⟩

theorem PortsKept.trans {s t u : State} (h : PortsKept s t) (k : PortsKept t u) : PortsKept s u :=
  ⟨k.drives.trans h.drives, k.cfg.trans h.cfg, k.now.trans h.now, k.inbox.trans h.inbox, k.out.trans h.out, k.events.trans h.events,
    k.freeCount.trans h.freeCount⟩

theorem commit_ports (t : Nat) (s : State) : PortsKept s (commit t s) := by
  rcases commit_cases t s with ⟨-, h⟩ | ⟨a, -, -, h⟩ <;> rw [h]
  · exact .refl s
  · exact ⟨Memory.write_inputsOf _ _ _ _ _, rfl, rfl, rfl, rfl, rfl, rfl⟩

theorem stopWriting_ports (t : Nat) (s : State) : PortsKept s (stopWriting t s) :=
  (commit_ports t s).trans ⟨rfl, rfl, rfl, rfl, rfl, rfl, rfl⟩

theorem flushWrite_ports (s : State) : PortsKept s (flushWrite s) := by
  rcases flushWrite_cases s with ⟨-, h⟩ | ⟨-, h⟩ <;> rw [h]
  · exact .refl s
  · exact stopWriting_ports _ s

theorem latchCrcError_ports (s : State) : PortsKept s s.latchCrcError := by
  unfold State.latchCrcError
  split
  · exact ⟨rfl, rfl, rfl, rfl, rfl, rfl, rfl⟩
  · exact .refl s

theorem takeByte_ports (s : State) : PortsKept s (takeByte s) := by
  unfold takeByte
  split <;> exact ⟨rfl, rfl, rfl, rfl, rfl, rfl, rfl⟩

theorem readComplete_ports (s : State) : PortsKept s (readComplete s) :=
  (latchCrcError_ports s).trans ⟨rfl, rfl, rfl, rfl, rfl, rfl, rfl⟩

theorem overrunAbort_ports (s : State) : PortsKept s (overrunAbort s) :=
  (latchCrcError_ports s).trans ⟨rfl, rfl, rfl, rfl, rfl, rfl, rfl⟩

theorem readBoundaryRead_ports (s : State) : PortsKept s (readBoundaryRead s) := by
  unfold readBoundaryRead
  split
  · exact overrunAbort_ports s
  · split
    · exact (takeByte_ports s).trans (readComplete_ports _)
    · exact takeByte_ports s

theorem readBoundary_ports (synced : Bool) (s : State) : PortsKept s (readBoundary synced s) := by
  unfold readBoundary
  cases s.seq.state with
  | read => exact readBoundaryRead_ports s
  | readWaitHeaderSync =>
    simp only [waitHeaderBoundary]
    split <;> exact ⟨rfl, rfl, rfl, rfl, rfl, rfl, rfl⟩
  | readVerifyHeader =>
    simp only [verifyHeaderBoundary]
    repeat' split
    all_goals exact ⟨rfl, rfl, rfl, rfl, rfl, rfl, rfl⟩
  | readSkipGap =>
    simp only [readSkipGapBoundary]
    split <;> exact ⟨rfl, rfl, rfl, rfl, rfl, rfl, rfl⟩
  | writeSkipGap =>
    simp only [writeSkipGapBoundary]
    split <;> exact ⟨rfl, rfl, rfl, rfl, rfl, rfl, rfl⟩
  | readWaitSectorSync =>
    simp only [waitSectorBoundary]
    repeat' split
    all_goals exact ⟨rfl, rfl, rfl, rfl, rfl, rfl, rfl⟩
  | readVerifySector =>
    simp only [verifySectorBoundary]
    repeat' split
    all_goals exact ⟨rfl, rfl, rfl, rfl, rfl, rfl, rfl⟩
  | idle | writeSectorSync | writeSector | writeCrc | format => exact .refl s

theorem writeComplete_ports (s : State) : PortsKept s (writeComplete s) :=
  (stopWriting_ports s.cur.windowStart s).trans ⟨rfl, rfl, rfl, rfl, rfl, rfl, rfl⟩

theorem writeBoundary_ports (s : State) : PortsKept s (writeBoundary s) := by
  unfold writeBoundary
  cases s.seq.state with
  | writeSectorSync =>
    simp only [writeSyncBoundary]
    split <;> exact ⟨rfl, rfl, rfl, rfl, rfl, rfl, rfl⟩
  | writeSector =>
    simp only [writeSectorBoundary]
    split <;> exact ⟨rfl, rfl, rfl, rfl, rfl, rfl, rfl⟩
  | writeCrc =>
    simp only [writeCrcBoundary]
    split
    · exact ⟨rfl, rfl, rfl, rfl, rfl, rfl, rfl⟩
    · exact writeComplete_ports s
  | format => exact ⟨rfl, rfl, rfl, rfl, rfl, rfl, rfl⟩
  | idle | readWaitHeaderSync | readVerifyHeader | readSkipGap | readWaitSectorSync | readVerifySector | read
  | writeSkipGap => exact .refl s

theorem decodedBit_ports (b : Bool) (s : State) : PortsKept s (decodedBit b s) := by
  have hfed : PortsKept s (fedCell b s) := ⟨rfl, rfl, rfl, rfl, rfl, rfl, rfl⟩
  have hmark : PortsKept s (markCell b s) := ⟨rfl, rfl, rfl, rfl, rfl, rfl, rfl⟩
  unfold decodedBit
  split
  · exact hmark.trans (readBoundary_ports true _)
  · split
    · exact hfed.trans (readBoundary_ports false _)
    · exact hfed

theorem sentBit_ports (k : Fin 16) (b : Bool) (q : SeqState) (s : State) : PortsKept s (sentBit k b q s) := by
  have hsent : PortsKept s (sentCell k b q s) := ⟨rfl, rfl, rfl, rfl, rfl, rfl, rfl⟩
  unfold sentBit
  split
  · exact hsent.trans (writeBoundary_ports _)
  · exact hsent

theorem pllGetNextBit_ports {limit : Nat} {s t : State} {b : Bool} (h : pllGetNextBit limit s = some (b, t)) :
    PortsKept s t := by
  rcases (pllGetNextBit_eq_some h).2 with ⟨-, -, rfl⟩ | ⟨edge, -, -, rfl⟩ <;> exact ⟨rfl, rfl, rfl, rfl, rfl, rfl, rfl⟩

theorem pllWriteNextBit_ports {bit : Bool} {limit : Nat} {s t : State} (h : pllWriteNextBit bit limit s = some t) :
    PortsKept s t := by
  rw [(pllWriteNextBit_eq_some h).2]
  have happ : PortsKept s ((appendCell bit s).withCursors (s.cur.windowStart + s.pll.period)) := by
    cases bit <;> exact ⟨rfl, rfl, rfl, rfl, rfl, rfl, rfl⟩
  unfold commitIfFull
  split
  · exact happ.trans (commit_ports _ _)
  · exact happ

theorem syncCell_ports {now : Nat} {s t : State} (h : syncCell now s = some t) : PortsKept s t := by
  unfold syncCell at h
  split at h
  · obtain ⟨b, u, hu, rfl⟩ := codecReadCell_eq_some h
    exact (pllGetNextBit_ports hu).trans (decodedBit_ports b u)
  · obtain ⟨u, hu, rfl⟩ := codecWriteCell_eq_some h
    exact (pllWriteNextBit_ports hu).trans (sentBit_ports _ _ _ u)

/-- `Sync` touches no port but the medium's, and no parameter. -/
theorem sync_ports (now : Nat) (s : State) : PortsKept s (sync now s) :=
  sync_keeps (P := PortsKept s) (fun _ _ h _ _ _ hc => h.trans (syncCell_ports hc))
    (fun _ h _ _ => h.trans ⟨rfl, rfl, rfl, rfl, rfl, rfl, rfl⟩) (.refl s)

theorem commandStart_ports (v : Byte) (s : State) : PortsKept s (commandStart v s) :=
  (flushWrite_ports s).trans ⟨rfl, rfl, rfl, rfl, rfl, rfl, rfl⟩

/-! ### What `CommandStart` leaves (43_sequencer.md R183) -/

theorem commandStart_eq (v : Byte) (s : State) :
    commandStart v s =
      { flushWrite s with
        regs := { (flushWrite s).regs with cmd0 := v }
        seq := { (flushWrite s).seq with byteCount := 0#16 }
        cur := { lastSync := s.now, windowStart := s.now }
        pll := { (flushWrite s).pll with phaseAdjust := 0, freqHist := 0#8 }
        codec := { (flushWrite s).codec with bitCount := 0, phase := false } } := by
  have h : (flushWrite s).now = s.now := (flushWrite_ports s).now
  rw [← h]
  rfl

/-- A flush changes the buffer, the drives and the trace of calls; nothing else. -/
theorem flushWrite_frame (s : State) :
    flushWrite s =
      { s with wbuf := (flushWrite s).wbuf, drives := (flushWrite s).drives, fluxCalls := (flushWrite s).fluxCalls } := by
  rcases flushWrite_cases s with ⟨-, h⟩ | ⟨-, h⟩ <;> rw [h]
  unfold stopWriting
  rcases commit_cases s.cur.windowStart s with ⟨-, h⟩ | ⟨a, -, -, h⟩ <;> rw [h] <;> rfl

end Sys2Proof.Machine
end

