-- ==== Sys2Proof/Laws/PerInstr.lean ====
section
/-! SUPPORT. A law of the encoder for every operation: its encoding meets its row of spec/opcode_table.json. -/

namespace Sys2Proof.Laws.MeetsRow

/-- A row's format, the width of the word it matches, and its mask and match. -/
structure Row where
  fmt : Format
  width : Nat
  mask : Byte
  want : Byte

/-- The rows, written out from spec/opcode_table.json. -/
def rowOf : Instr → Row
  | .rdStat0 => ⟨.bus, 4, 0xF#8, 0x0#8⟩
  | .rdStat1 => ⟨.bus, 4, 0xF#8, 0x1#8⟩
  | .rdRsvd2 => ⟨.bus, 4, 0xF#8, 0x2#8⟩
  | .rdData => ⟨.bus, 4, 0xF#8, 0x3#8⟩
  | .rdRsvd4 _ => ⟨.bus, 4, 0xC#8, 0x4#8⟩
  | .wrCmd0 _ => ⟨.bus, 4, 0xF#8, 0x8#8⟩
  | .wrCmd1 _ => ⟨.bus, 4, 0xF#8, 0x9#8⟩
  | .wrCmd2 _ => ⟨.bus, 4, 0xF#8, 0xA#8⟩
  | .wrData _ => ⟨.bus, 4, 0xF#8, 0xB#8⟩
  | .wrClk _ => ⟨.bus, 4, 0xF#8, 0xC#8⟩
  | .wrSect _ => ⟨.bus, 4, 0xF#8, 0xD#8⟩
  | .wrTrck _ => ⟨.bus, 4, 0xF#8, 0xE#8⟩
  | .wrCell _ => ⟨.bus, 4, 0xF#8, 0xF#8⟩
  | .cmdIdle _ => ⟨.cmd0, 8, 0x07#8, 0x00#8⟩
  | .cmdFormat _ => ⟨.cmd0, 8, 0x07#8, 0x04#8⟩
  | .cmdWriteSector _ => ⟨.cmd0, 8, 0x03#8, 0x01#8⟩
  | .cmdReadHead _ => ⟨.cmd0, 8, 0x03#8, 0x02#8⟩
  | .cmdReadSector _ => ⟨.cmd0, 8, 0x03#8, 0x03#8⟩
  | .crcBit _ _ => ⟨.engine, 8, 0xFF#8, 0x00#8⟩
  | .crcByte _ _ => ⟨.engine, 8, 0xFF#8, 0x01#8⟩
  | .crcOfByte _ => ⟨.engine, 8, 0xFF#8, 0x02#8⟩
  | .pllSetClock _ => ⟨.engine, 8, 0xFF#8, 0x03#8⟩
  | .pllReadReset _ => ⟨.engine, 8, 0xFF#8, 0x04#8⟩
  | .pllGetNextBit _ => ⟨.engine, 8, 0xFF#8, 0x05#8⟩
  | .pllWriteNextBit _ _ => ⟨.engine, 8, 0xFF#8, 0x06#8⟩
  | .codecReadCell _ => ⟨.engine, 8, 0xFF#8, 0x07#8⟩
  | .codecWriteCell _ => ⟨.engine, 8, 0xFF#8, 0x08#8⟩
  | .wbufStart _ => ⟨.engine, 8, 0xFF#8, 0x09#8⟩
  | .wbufCommit _ => ⟨.engine, 8, 0xFF#8, 0x0A#8⟩
  | .wbufStop _ => ⟨.engine, 8, 0xFF#8, 0x0B#8⟩
  | .sync => ⟨.engine, 8, 0xFF#8, 0x0C#8⟩
  | .reset => ⟨.engine, 8, 0xFF#8, 0x0D#8⟩

/-- The encoding of a well-formed operation is in its row's format, and its first byte fits the row's width and matches the
row under its mask. -/
def Statement (i : Instr) : Prop :=
  i.wf = true → (encode i).1 = (rowOf i).fmt ∧
    ∃ b rest, (encode i).2 = b :: rest ∧ b.toNat < 2 ^ (rowOf i).width ∧ b &&& (rowOf i).mask = (rowOf i).want

/-- A command byte that passes its check meets its row. -/
theorem selects_meets {mask want v : Byte} (h : selects mask want v = true) :
    ∃ b rest, [v] = b :: rest ∧ b.toNat < 2 ^ 8 ∧ b &&& mask = want :=
  ⟨v, [], rfl, v.isLt, by simpa [selects] using h⟩

/-- An encoding whose first byte is a constant meets its row when that byte does. -/
theorem constant_meets {b mask want : Byte} {width : Nat} (rest : List Byte) (h : b.toNat < 2 ^ width)
    (hm : b &&& mask = want) : ∃ c cs, b :: rest = c :: cs ∧ c.toNat < 2 ^ width ∧ c &&& mask = want :=
  ⟨b, rest, rfl, h, hm⟩

theorem rdStat0 : Statement .rdStat0 := fun _ => ⟨rfl, constant_meets _ (by decide) (by decide)⟩
theorem rdStat1 : Statement .rdStat1 := fun _ => ⟨rfl, constant_meets _ (by decide) (by decide)⟩
theorem rdRsvd2 : Statement .rdRsvd2 := fun _ => ⟨rfl, constant_meets _ (by decide) (by decide)⟩
theorem rdData : Statement .rdData := fun _ => ⟨rfl, constant_meets _ (by decide) (by decide)⟩
theorem rdRsvd4 (offset : BitVec 3) : Statement (.rdRsvd4 offset) := fun h =>
  ⟨rfl, _, _, rfl, by revert offset; decide, by revert offset; decide⟩
theorem wrCmd0 (v : Byte) : Statement (.wrCmd0 v) := fun _ =>
  ⟨rfl, constant_meets (width := 4) (mask := 0xF#8) (want := 0x8#8) _ (by decide) (by decide)⟩
theorem wrCmd1 (v : Byte) : Statement (.wrCmd1 v) := fun _ =>
  ⟨rfl, constant_meets (width := 4) (mask := 0xF#8) (want := 0x9#8) _ (by decide) (by decide)⟩
theorem wrCmd2 (v : Byte) : Statement (.wrCmd2 v) := fun _ =>
  ⟨rfl, constant_meets (width := 4) (mask := 0xF#8) (want := 0xA#8) _ (by decide) (by decide)⟩
theorem wrData (v : Byte) : Statement (.wrData v) := fun _ =>
  ⟨rfl, constant_meets (width := 4) (mask := 0xF#8) (want := 0xB#8) _ (by decide) (by decide)⟩
theorem wrClk (v : Byte) : Statement (.wrClk v) := fun _ =>
  ⟨rfl, constant_meets (width := 4) (mask := 0xF#8) (want := 0xC#8) _ (by decide) (by decide)⟩
theorem wrSect (v : Byte) : Statement (.wrSect v) := fun _ =>
  ⟨rfl, constant_meets (width := 4) (mask := 0xF#8) (want := 0xD#8) _ (by decide) (by decide)⟩
theorem wrTrck (v : Byte) : Statement (.wrTrck v) := fun _ =>
  ⟨rfl, constant_meets (width := 4) (mask := 0xF#8) (want := 0xE#8) _ (by decide) (by decide)⟩
theorem wrCell (v : Byte) : Statement (.wrCell v) := fun _ =>
  ⟨rfl, constant_meets (width := 4) (mask := 0xF#8) (want := 0xF#8) _ (by decide) (by decide)⟩
theorem cmdIdle (v : Byte) : Statement (.cmdIdle v) := fun h => ⟨rfl, selects_meets h⟩
theorem cmdFormat (v : Byte) : Statement (.cmdFormat v) := fun h => ⟨rfl, selects_meets h⟩
theorem cmdWriteSector (v : Byte) : Statement (.cmdWriteSector v) := fun h => ⟨rfl, selects_meets h⟩
theorem cmdReadHead (v : Byte) : Statement (.cmdReadHead v) := fun h => ⟨rfl, selects_meets h⟩
theorem cmdReadSector (v : Byte) : Statement (.cmdReadSector v) := fun h => ⟨rfl, selects_meets h⟩
theorem crcBit (crc : Word16) (bit : Bool) : Statement (.crcBit crc bit) := fun _ =>
  ⟨rfl, constant_meets (width := 8) (mask := 0xFF#8) (want := 0x00#8) _ (by decide) (by decide)⟩
theorem crcByte (crc : Word16) (b : Byte) : Statement (.crcByte crc b) := fun _ =>
  ⟨rfl, constant_meets (width := 8) (mask := 0xFF#8) (want := 0x01#8) _ (by decide) (by decide)⟩
theorem crcOfByte (b : Byte) : Statement (.crcOfByte b) := fun _ =>
  ⟨rfl, constant_meets (width := 8) (mask := 0xFF#8) (want := 0x02#8) _ (by decide) (by decide)⟩
theorem pllSetClock (p : Nat) : Statement (.pllSetClock p) := fun _ =>
  ⟨rfl, constant_meets (width := 8) (mask := 0xFF#8) (want := 0x03#8) _ (by decide) (by decide)⟩
theorem pllReadReset (t : Nat) : Statement (.pllReadReset t) := fun _ =>
  ⟨rfl, constant_meets (width := 8) (mask := 0xFF#8) (want := 0x04#8) _ (by decide) (by decide)⟩
theorem pllGetNextBit (limit : Nat) : Statement (.pllGetNextBit limit) := fun _ =>
  ⟨rfl, constant_meets (width := 8) (mask := 0xFF#8) (want := 0x05#8) _ (by decide) (by decide)⟩
theorem pllWriteNextBit (bit : Bool) (limit : Nat) : Statement (.pllWriteNextBit bit limit) := fun _ =>
  ⟨rfl, constant_meets (width := 8) (mask := 0xFF#8) (want := 0x06#8) _ (by decide) (by decide)⟩
theorem codecReadCell (limit : Nat) : Statement (.codecReadCell limit) := fun _ =>
  ⟨rfl, constant_meets (width := 8) (mask := 0xFF#8) (want := 0x07#8) _ (by decide) (by decide)⟩
theorem codecWriteCell (limit : Nat) : Statement (.codecWriteCell limit) := fun _ =>
  ⟨rfl, constant_meets (width := 8) (mask := 0xFF#8) (want := 0x08#8) _ (by decide) (by decide)⟩
theorem wbufStart (t : Nat) : Statement (.wbufStart t) := fun _ =>
  ⟨rfl, constant_meets (width := 8) (mask := 0xFF#8) (want := 0x09#8) _ (by decide) (by decide)⟩
theorem wbufCommit (t : Nat) : Statement (.wbufCommit t) := fun _ =>
  ⟨rfl, constant_meets (width := 8) (mask := 0xFF#8) (want := 0x0A#8) _ (by decide) (by decide)⟩
theorem wbufStop (t : Nat) : Statement (.wbufStop t) := fun _ =>
  ⟨rfl, constant_meets (width := 8) (mask := 0xFF#8) (want := 0x0B#8) _ (by decide) (by decide)⟩
theorem sync : Statement .sync := fun _ => ⟨rfl, constant_meets _ (by decide) (by decide)⟩
theorem reset : Statement .reset := fun _ => ⟨rfl, constant_meets _ (by decide) (by decide)⟩

end Sys2Proof.Laws.MeetsRow
end

