-- ==== Sys2Proof/Laws/Progress.lean ====
section
/-! SUPPORT. `Sync` makes progress: every cell moves `State.reach` forward, a cell of negative length included, so the bound
`cellBound` never cuts the loop short; and how far back a cell can move the cursors (log 6, log 15). -/

namespace Sys2Proof.Machine

/-! ### A medium answers no tick before the question's -/

theorem fluxNext_le {l : List Nat} {t x : Nat} (h : fluxNext l t = some x) : t ≤ x := by
  simpa using List.find?_some h

theorem rotatingNext_le {rev : Nat} {l : List Nat} {t x : Nat} (h : rotatingNext rev l t = some x) : t ≤ x := by
  unfold rotatingNext at h
  have hm := Nat.mod_le t rev
  split at h
  · cases h
  · rename_i hrev
    have hlt := Nat.mod_lt t (Nat.pos_of_ne_zero hrev)
    split at h
    · rename_i y hy
      have := fluxNext_le hy
      simp only [Option.some.injEq] at h
      omega
    · split at h
      · cases h
      · simp only [Option.some.injEq] at h
        omega

theorem externalSearch_le {fuel id k base t x : Nat} (h : externalSearch fuel id k base t = some x) : t ≤ x := by
  induction fuel generalizing k base with
  | zero => cases h
  | succ fuel ih =>
    unfold externalSearch at h
    split at h
    · cases h
    · split at h
      · simp only [Option.some.injEq] at h
        omega
      · exact ih h

theorem earlier_cases {a b : Option Nat} {x : Nat} (h : earlier a b = some x) : a = some x ∨ b = some x := by
  cases a <;> cases b <;> simp_all [earlier]
  omega

theorem overlayNext_le {base : Nat → Option Nat} (hb : ∀ t x, base t = some x → t ≤ x) :
    ∀ (ws : List FluxWrite) (t x : Nat), overlayNext base ws t = some x → t ≤ x
  | [], t, x, h => hb t x h
  | w :: ws, t, x, h => by
    simp only [overlayNext] at h
    rcases earlier_cases h with h | h
    · split at h
      · cases h
      · rename_i y hy
        have hty := overlayNext_le hb ws t y hy
        split at h
        · simp only [Option.some.injEq] at h
          omega
        · rename_i ho
          have := overlayNext_le hb ws w.stop x h
          simp only [outside, Bool.or_eq_true, decide_eq_true_eq] at ho
          omega
    · exact fluxNext_le h

theorem Medium.next_le {m : Medium} {t x : Nat} (h : m.next t = some x) : t ≤ x := by
  cases m with
  | linear l => exact fluxNext_le h
  | rotating rev l => exact rotatingNext_le h
  | external id ws => exact overlayNext_le (fun _ _ hb => externalSearch_le hb) ws t x h

/-- The first transition at or after a tick is not before it (20_memory.md R75). -/
theorem nextTransition_le {s : State} {t x : Nat} (h : nextTransition s t = some x) : t ≤ x := by
  unfold nextTransition at h
  split at h
  · cases h
  · exact Medium.next_le h

theorem edgeInWindow_bounds {s : State} {edge : Nat} (h : edgeInWindow s = some edge) :
    s.cur.windowStart ≤ edge ∧ edge < windowEnd s :=
  ⟨nextTransition_le (edgeInWindow_eq_some.1 h).1, (edgeInWindow_eq_some.1 h).2⟩

/-! ### One cell -/

/-- A phase correction takes back at most 0.65 of how early the transition was (41_pll.md R146). -/
theorem phaseCorrection_ge (delta : Int) : 65 * min delta 0 ≤ 100 * truncDiv (65 * delta) 100 := by
  unfold truncDiv
  rcases lt_trichotomy delta 0 with h | h | h
  · have hs : (65 * delta).sign = -1 := Int.sign_eq_neg_one_of_neg (by omega)
    rw [hs]
    omega
  · subst h
    simp
  · have hs : (65 * delta).sign = 1 := Int.sign_eq_one_of_pos (by omega)
    rw [hs]
    omega

/-- The cursors after a cell without a transition: where a negative window is held, or there is none, not before its start. -/
theorem cellCursor_cases (s : State) :
    ((cellCursor s : Int) = max 0 ((s.cur.windowStart : Int) + s.pll.period + s.pll.phaseAdjust) ∧
      (s.cfg.negativeWindow = .hold → 0 ≤ (s.pll.period : Int) + s.pll.phaseAdjust)) ∨
    (cellCursor s = s.cur.windowStart ∧ s.cfg.negativeWindow = .hold ∧ (s.pll.period : Int) + s.pll.phaseAdjust < 0) := by
  unfold cellCursor Pll.windowOk windowEnd
  split
  · rename_i h
    exact .inr ⟨rfl, h.2, by simpa using h.1⟩
  · rename_i h
    refine .inl ⟨by omega, fun hh => ?_⟩
    simpa [hh] using h

/-- A read cell moves the reach forward, and not behind the end of a window of negative length (41_pll.md R142, R146). -/
theorem pllGetNextBit_reach {limit : Nat} {s t : State} {b : Bool} (hp : 1 ≤ s.pll.period)
    (h : pllGetNextBit limit s = some (b, t)) :
    s.reach + 1 ≤ t.reach ∧
    (s.cur.windowStart : Int) + min 0 ((s.pll.period : Int) + s.pll.phaseAdjust) ≤ t.reach ∧
    (s.cfg.negativeWindow = .hold → s.cur.windowStart ≤ t.cur.windowStart) := by
  rcases (pllGetNextBit_eq_some h).2 with ⟨-, -, rfl⟩ | ⟨edge, he, -, rfl⟩
  · simp only [State.reach, State.withCursors_cur, State.withCursors_pll, State.withPll_pll]
    rcases cellCursor_cases s with ⟨hc, hh⟩ | ⟨hc, -, hn⟩
    · exact ⟨by omega, by omega, fun e => by have := hh e; omega⟩
    · rw [hc]
      exact ⟨by omega, by omega, fun _ => le_refl _⟩
  · obtain ⟨h1, h2⟩ := edgeInWindow_bounds he
    have hc := phaseCorrection_ge (edgeDelta s edge)
    simp only [State.reach, Pll.correct, State.withCursors_cur, State.withCursors_pll, State.withPll_pll]
    simp only [edgeDelta, windowEnd] at *
    exact ⟨by omega, by omega, fun _ => by omega⟩

/-- A phase correction stays smaller than the time that has passed (41_pll.md R146). -/
theorem pllGetNextBit_phase {limit : Nat} {s t : State} {b : Bool} (h : pllGetNextBit limit s = some (b, t)) :
    0 ≤ (t.cur.windowStart : Int) + t.pll.phaseAdjust := by
  rcases (pllGetNextBit_eq_some h).2 with ⟨-, -, rfl⟩ | ⟨edge, he, -, rfl⟩
  · simp only [State.withCursors_cur, State.withCursors_pll, State.withPll_pll]
    omega
  · obtain ⟨h1, h2⟩ := edgeInWindow_bounds he
    have hc := phaseCorrection_ge (edgeDelta s edge)
    simp only [Pll.correct, State.withCursors_cur, State.withCursors_pll, State.withPll_pll]
    simp only [edgeDelta] at *
    omega

/-- A boundary of a read moves no cursor; it keeps the PLL or, where writing starts, clears the phase correction. -/
theorem readBoundary_clock (synced : Bool) (s : State) :
    (readBoundary synced s).cur = s.cur ∧
    ((readBoundary synced s).pll = s.pll ∨ (readBoundary synced s).pll = { s.pll with phaseAdjust := 0 }) := by
  unfold readBoundary
  cases s.seq.state with
  | read =>
    simp only [readBoundaryRead, overrunAbort, readComplete, takeByte, State.latchCrcError]
    repeat' split
    all_goals exact ⟨rfl, .inl rfl⟩
  | readWaitHeaderSync =>
    simp only [waitHeaderBoundary]
    split <;> exact ⟨rfl, .inl rfl⟩
  | readVerifyHeader =>
    simp only [verifyHeaderBoundary]
    repeat' split
    all_goals exact ⟨rfl, .inl rfl⟩
  | readSkipGap =>
    simp only [readSkipGapBoundary]
    split <;> exact ⟨rfl, .inl rfl⟩
  | writeSkipGap =>
    simp only [writeSkipGapBoundary]
    split
    · exact ⟨rfl, .inr rfl⟩
    · exact ⟨rfl, .inl rfl⟩
  | readWaitSectorSync =>
    simp only [waitSectorBoundary]
    repeat' split
    all_goals exact ⟨rfl, .inl rfl⟩
  | readVerifySector =>
    simp only [verifySectorBoundary]
    repeat' split
    all_goals exact ⟨rfl, .inl rfl⟩
  | idle | writeSectorSync | writeSector | writeCrc | format => exact ⟨rfl, .inl rfl⟩

/-- What follows a decoded bit moves no cursor; it keeps the PLL or clears the phase correction. -/
theorem decodedBit_clock (b : Bool) (s : State) :
    (decodedBit b s).cur = s.cur ∧
    ((decodedBit b s).pll = s.pll ∨ (decodedBit b s).pll = { s.pll with phaseAdjust := 0 }) := by
  unfold decodedBit
  split
  · exact readBoundary_clock true (markCell b s)
  · split
    · exact readBoundary_clock false (fedCell b s)
    · exact ⟨rfl, .inl rfl⟩

theorem commit_clock (t : Nat) (s : State) : (commit t s).cur = s.cur ∧ (commit t s).pll = s.pll := by
  rcases commit_cases t s with ⟨-, h⟩ | ⟨a, -, -, h⟩ <;> rw [h] <;> exact ⟨rfl, rfl⟩

/-- A boundary of a write leaves `window_start`; where the cursors are equal they stay so. -/
theorem writeBoundary_clock (s : State) :
    (writeBoundary s).cur.windowStart = s.cur.windowStart ∧
    (s.cur.lastSync = s.cur.windowStart → (writeBoundary s).cur.lastSync = s.cur.windowStart) := by
  unfold writeBoundary
  cases s.seq.state with
  | writeSectorSync =>
    simp only [writeSyncBoundary]
    split <;> exact ⟨rfl, id⟩
  | writeSector =>
    simp only [writeSectorBoundary]
    split <;> exact ⟨rfl, id⟩
  | writeCrc =>
    simp only [writeCrcBoundary]
    split
    · exact ⟨rfl, id⟩
    · have h : (commit s.cur.windowStart s).cur = s.cur := (commit_clock _ s).1
      simp [writeComplete, stopWriting, h]
  | format => exact ⟨rfl, id⟩
  | idle | readWaitHeaderSync | readVerifyHeader | readSkipGap | readWaitSectorSync | readVerifySector | read
  | writeSkipGap => exact ⟨rfl, id⟩

/-- What follows a sent cell leaves `window_start`, and equal cursors equal. -/
theorem sentBit_clock (k : Fin 16) (b : Bool) (q : SeqState) (s : State) :
    (sentBit k b q s).cur.windowStart = s.cur.windowStart ∧
    (s.cur.lastSync = s.cur.windowStart → (sentBit k b q s).cur.lastSync = s.cur.windowStart) := by
  unfold sentBit
  split
  · exact writeBoundary_clock (sentCell k b q s)
  · exact ⟨rfl, id⟩

/-- A written cell moves both cursors forward by exactly `period` (41_pll.md R150). -/
theorem pllWriteNextBit_cursors {bit : Bool} {limit : Nat} {s t : State} (h : pllWriteNextBit bit limit s = some t) :
    t.cur = { lastSync := s.cur.windowStart + s.pll.period, windowStart := s.cur.windowStart + s.pll.period } := by
  rw [(pllWriteNextBit_eq_some h).2, commitIfFull]
  split
  · rw [(commit_clock _ _).1]
    rfl
  · rfl

theorem reach_mono_of {s t : State} (hc : t.cur = s.cur)
    (hp : t.pll = s.pll ∨ t.pll = { s.pll with phaseAdjust := 0 }) : s.reach ≤ t.reach := by
  unfold State.reach
  rw [hc]
  rcases hp with hp | hp <;> rw [hp]
  simp only
  omega

/-- A boundary of a write moves no reach backward: at its end the phase correction is cleared where the cursor stands. -/
theorem writeBoundary_reach (s : State) : s.reach ≤ (writeBoundary s).reach := by
  unfold writeBoundary
  cases s.seq.state with
  | writeSectorSync =>
    simp only [writeSyncBoundary]
    split <;> exact le_refl _
  | writeSector =>
    simp only [writeSectorBoundary]
    split <;> exact le_refl _
  | writeCrc =>
    simp only [writeCrcBoundary]
    split
    · exact le_refl _
    · have h : (commit s.cur.windowStart s).cur = s.cur := (commit_clock _ s).1
      simp only [State.reach, writeComplete, stopWriting, State.setFree_eq, pllReadReset_eq, State.restart_eq,
        State.withCodec_cur, State.withCodec_pll, State.withSeq_cur, State.withSeq_pll, State.withCursors_cur,
        State.withCursors_pll, State.withPll_pll, State.withRegs_cur, State.withWbuf_cur, h]
      omega
  | format => exact le_refl _
  | idle | readWaitHeaderSync | readVerifyHeader | readSkipGap | readWaitSectorSync | readVerifySector | read
  | writeSkipGap => exact le_refl _

/-- A written cell moves the reach forward by its period (41_pll.md R150). -/
theorem pllWriteNextBit_reach {bit : Bool} {limit : Nat} {s t : State} (h : pllWriteNextBit bit limit s = some t) :
    t.reach = s.reach + s.pll.period := by
  have happ : ((appendCell bit s).withCursors (s.cur.windowStart + s.pll.period)).reach = s.reach + s.pll.period := by
    cases bit <;> simp [State.reach, appendCell] <;> omega
  rw [(pllWriteNextBit_eq_some h).2, commitIfFull]
  split
  · rw [← happ]
    simp only [State.reach, commit_clock]
  · exact happ

/-- Every cell of a `Sync` moves the reach forward (43_sequencer.md R182), not behind the end of a window of negative length, and
leaves the cursors equal (10_state.md R37); where a negative window is held, it moves no cursor backward (10_state.md R38, log 6). -/
theorem syncCell_advance {now : Nat} {s t : State} (hp : s.pll.period ≠ 0) (h : syncCell now s = some t) :
    s.reach + 1 ≤ t.reach ∧ (s.cur.windowStart : Int) + min 0 ((s.pll.period : Int) + s.pll.phaseAdjust) ≤ t.reach ∧
    t.cur.lastSync = t.cur.windowStart ∧
    (s.cfg.negativeWindow = .hold → s.cur.windowStart ≤ t.cur.windowStart) := by
  unfold syncCell at h
  split at h
  · obtain ⟨b, u, hu, rfl⟩ := codecReadCell_eq_some h
    obtain ⟨hr, hb, hh⟩ := pllGetNextBit_reach (Nat.one_le_iff_ne_zero.2 hp) hu
    obtain ⟨hcur, hpll⟩ := decodedBit_clock b u
    have heq : u.cur.lastSync = u.cur.windowStart := by
      rcases (pllGetNextBit_eq_some hu).2 with ⟨-, -, rfl⟩ | ⟨edge, -, -, rfl⟩ <;> rfl
    have hm := reach_mono_of hcur hpll
    exact ⟨le_trans hr hm, le_trans hb hm, by rw [hcur]; exact heq, by rw [hcur]; exact hh⟩
  · obtain ⟨u, hu, rfl⟩ := codecWriteCell_eq_some h
    have hcur := pllWriteNextBit_cursors hu
    have hreach := pllWriteNextBit_reach hu
    obtain ⟨hws, hls⟩ := sentBit_clock s.codec.bitCount (nextCellBit s) s.seq.state u
    have hls := hls (by rw [hcur])
    have hs : u.reach ≤ (sentBit s.codec.bitCount (nextCellBit s) s.seq.state u).reach := by
      unfold sentBit
      split
      · exact writeBoundary_reach (sentCell s.codec.bitCount (nextCellBit s) s.seq.state u)
      · exact le_refl _
    rw [hcur] at hws hls
    simp only at hws hls
    refine ⟨by omega, ?_, by omega, fun _ => by omega⟩
    unfold State.reach at *
    omega

/-! ### The bound is enough -/

/-- Any two bounds that reach from where the cells can still go back to up to `now` give the same loop. -/
theorem syncLoop_bound {now : Nat} : ∀ (m n : Nat) (s : State), s.cur.lastSync = s.cur.windowStart →
    (now : Int) - s.reach ≤ m → (now : Int) - s.reach ≤ n → syncLoop m now s = syncLoop n now s := by
  have hzero : ∀ (n : Nat) (s : State), s.cur.lastSync = s.cur.windowStart → (now : Int) - s.reach ≤ 0 →
      syncLoop n now s = s := by
    intro n s hc h
    have hle : ¬ s.cur.lastSync < now := by
      unfold State.reach at h
      omega
    cases n with
    | zero => rfl
    | succ n => simp [syncLoop, hle]
  intro m
  induction m with
  | zero => intro n s hc hm hn; rw [hzero n s hc (by simpa using hm)]; rfl
  | succ m ih =>
    intro n s hc hm hn
    cases n with
    | zero => rw [hzero _ s hc (by simpa using hn)]; rfl
    | succ n =>
      unfold syncLoop
      split
      · split
        · rfl
        · rename_i hst
          rw [not_or] at hst
          split
          · rfl
          · rename_i t ht
            obtain ⟨hr, -, hcur, -⟩ := syncCell_advance hst.2 ht
            exact ih n t hcur (by push_cast at hm; omega) (by push_cast at hn; omega)
      · rfl

/-- `Sync` is the loop with any bound that is large enough: `cellBound` is. -/
theorem sync_eq_syncLoop {now n : Nat} {s : State} (hc : s.cur.lastSync = s.cur.windowStart)
    (hn : (now : Int) - s.reach ≤ n) : sync now s = syncLoop n now s := by
  refine syncLoop_bound _ _ _ hc ?_ hn
  unfold State.reach cellBound
  omega

/-- In a build that holds them over a window of negative length `Sync` moves no cursor backward (10_state.md R35, R38, log 6). -/
theorem sync_cursor_le_of_hold (now : Nat) {s : State} (hh : s.cfg.negativeWindow = .hold)
    (hc : s.cur.lastSync = s.cur.windowStart) : s.cur.windowStart ≤ (sync now s).cur.windowStart :=
  (sync_keeps (now := now) (s := s)
    (P := fun t => t.cfg = s.cfg ∧ t.cur.lastSync = t.cur.windowStart ∧ s.cur.windowStart ≤ t.cur.windowStart)
    (fun u t h _ hp _ ht =>
      have ha := syncCell_advance hp ht
      ⟨(syncCell_ports ht).cfg.trans h.1, ha.2.2.1, le_trans h.2.2 (ha.2.2.2 (by rw [h.1, hh]))⟩)
    (fun u h _ hlt => ⟨h.1, rfl, by have := h.2.1; have := h.2.2; simp only [State.withCursors_cur]; omega⟩)
    ⟨rfl, hc, le_refl _⟩).2.2

end Sys2Proof.Machine
end

