-- ==== Sys2Proof/Tests/Slice0.lean ====
section
/-! SUPPORT. Tests of the model against values worked out from the spec, and for each statement of
Certificates/Slice0/Obligations.lean that has hypotheses a concrete case that meets them (`witness_…`). -/

namespace Sys2Proof.Tests

open Sys2Proof.Machine

/-! ### Helpers -/

/-- The next state of an outcome, if it is one. -/
def answered (o : Host.Outcome State Fault Refusal) : Option State :=
  match o with
  | .next t => some t
  | .fault _ => none
  | .refused _ => none

/-- One field after an operation. -/
def look {α : Type} (i : Instr) (s : State) (f : State → α) : Option α := (answered (exec i s)).map f

/-- Drive 0 selected, the comparator set to the mark. -/
def ready : Regs := { Regs.reset with cmd2 := 0x01#8, wdata := 0xA1#8, clk := 0x0A#8 }

/-- `ready` with a linear medium of the ticks `flux`, cell length `p`, cursors at `w`, sequencer in `q`. -/
def block (q : SeqState) (p w : Nat) (flux : List Nat) : State :=
  { State.reset with
    regs := ready
    seq := { state := q, byteCount := 0#16 }
    cur := { lastSync := w, windowStart := w }
    pll := Pll.reset.setClock p
    now := w
    drives := [{ Drive.blank with medium := .linear flux }, Drive.blank] }

/-- `block` while a write that began at `a` is in progress. -/
def writing (q : SeqState) (p a w : Nat) (ticks : List Nat) : State :=
  { block q p w [] with wbuf := { start := some a, ticks := ticks } }

/-- A state at tick `n` of the time port. -/
def atTick (s : State) (n : Nat) : State := { s with now := n }

/-- A status0 value. -/
def withStat0 (s : State) (v : Byte) : State := { s with regs := { s.regs with stat0 := v } }

/-- A byte count and a byte just decoded. -/
def atByte (s : State) (n : Nat) (d : Byte) : State :=
  { s with seq := { s.seq with byteCount := BitVec.ofNat 16 n }, codec := { s.codec with dataReg := d } }

/-! ### WellFormed refuses what stands for no row -/

theorem test_wf_refuses_low_reserved_offset : (Instr.rdRsvd4 3#3).wf = false := by decide
theorem test_wf_refuses_idle_with_mode : (Instr.cmdIdle 0x01#8).wf = false := by decide
theorem test_wf_refuses_format_without_gate : (Instr.cmdFormat 0x00#8).wf = false := by decide
theorem test_wf_refuses_write_sector_of_mode_3 : (Instr.cmdWriteSector 0x03#8).wf = false := by decide
theorem test_wf_refuses_read_head_of_mode_3 : (Instr.cmdReadHead 0x03#8).wf = false := by decide
theorem test_wf_refuses_read_sector_of_mode_2 : (Instr.cmdReadSector 0x02#8).wf = false := by decide
theorem test_wf_accepts_flags : (Instr.cmdFormat 0x3C#8).wf = true ∧ (Instr.cmdReadSector 0xFF#8).wf = true := by decide

/-! ### Decoding words written out from 30_encoding.md R100, R101, R103, R119 -/

theorem test_decode_rdStat0 : decode .bus [0b0000#8] = .ok .rdStat0 := by decide
theorem test_decode_rdStat1 : decode .bus [0b0001#8] = .ok .rdStat1 := by decide
theorem test_decode_rdRsvd2 : decode .bus [0b0010#8] = .ok .rdRsvd2 := by decide
theorem test_decode_rdData : decode .bus [0b0011#8] = .ok .rdData := by decide
theorem test_decode_rdRsvd4 : decode .bus [0b0110#8] = .ok (.rdRsvd4 6#3) := by decide
theorem test_decode_wrCmd0 : decode .bus [0b1000#8, 0x23#8] = .ok (.wrCmd0 0x23#8) := by decide
theorem test_decode_wrCmd1 : decode .bus [0b1001#8, 0x30#8] = .ok (.wrCmd1 0x30#8) := by decide
theorem test_decode_wrCmd2 : decode .bus [0b1010#8, 0x05#8] = .ok (.wrCmd2 0x05#8) := by decide
theorem test_decode_wrData : decode .bus [0b1011#8, 0xA1#8] = .ok (.wrData 0xA1#8) := by decide
theorem test_decode_wrClk : decode .bus [0b1100#8, 0x0A#8] = .ok (.wrClk 0x0A#8) := by decide
theorem test_decode_wrSect : decode .bus [0b1101#8, 3#8] = .ok (.wrSect 3#8) := by decide
theorem test_decode_wrTrck : decode .bus [0b1110#8, 5#8] = .ok (.wrTrck 5#8) := by decide
theorem test_decode_wrCell : decode .bus [0b1111#8, 32#8] = .ok (.wrCell 32#8) := by decide
theorem test_decode_cmdIdle : decode .cmd0 [0b00111000#8] = .ok (.cmdIdle 0x38#8) := by decide
theorem test_decode_cmdFormat : decode .cmd0 [0b00000100#8] = .ok (.cmdFormat 0x04#8) := by decide
theorem test_decode_cmdWriteSector : decode .cmd0 [0b00000101#8] = .ok (.cmdWriteSector 0x05#8) := by decide
theorem test_decode_cmdReadHead : decode .cmd0 [0b00000010#8] = .ok (.cmdReadHead 0x02#8) := by decide
theorem test_decode_cmdReadSector : decode .cmd0 [0b11000011#8] = .ok (.cmdReadSector 0xC3#8) := by decide
theorem test_decode_crcBit : decode .engine [0x00#8, 0x80#8, 0x01#8, 1#8] = .ok (.crcBit 0x8001#16 true) := by decide
theorem test_decode_crcByte : decode .engine [0x01#8, 0xFF#8, 0xFE#8, 0xA1#8] = .ok (.crcByte 0xFFFE#16 0xA1#8) := by decide
theorem test_decode_crcOfByte : decode .engine [0x02#8, 0xA1#8] = .ok (.crcOfByte 0xA1#8) := by decide
theorem test_decode_pllSetClock : decode .engine [0x03#8, 0x07#8, 0xD0#8] = .ok (.pllSetClock 2000) := by decide
theorem test_decode_pllReadReset : decode .engine [0x04#8] = .ok (.pllReadReset 0) := by decide
theorem test_decode_pllGetNextBit : decode .engine [0x05#8, 0x03#8, 0xE8#8] = .ok (.pllGetNextBit 1000) := by decide
theorem test_decode_pllWriteNextBit : decode .engine [0x06#8, 1#8, 0x20#8] = .ok (.pllWriteNextBit true 32) := by decide
theorem test_decode_codecReadCell : decode .engine [0x07#8, 0x20#8] = .ok (.codecReadCell 32) := by decide
theorem test_decode_codecWriteCell : decode .engine [0x08#8, 0x20#8] = .ok (.codecWriteCell 32) := by decide
theorem test_decode_wbufStart : decode .engine [0x09#8, 0x6C#8, 0x00#8] = .ok (.wbufStart 27648) := by decide
theorem test_decode_wbufCommit : decode .engine [0x0A#8, 0x20#8] = .ok (.wbufCommit 32) := by decide
theorem test_decode_wbufStop : decode .engine [0x0B#8, 0x20#8] = .ok (.wbufStop 32) := by decide
theorem test_decode_sync : decode .engine [0x0C#8] = .ok .sync := by decide
theorem test_decode_reset : decode .engine [0x0D#8] = .ok .reset := by decide
theorem test_decode_refuses_by_name :
    decode .bus [] = .error .empty ∧ decode .bus [0x10#8] = .error .offsetOutOfRange ∧
    decode .bus [0xB#8] = .error .missingOperand ∧ decode .bus [0xB#8, 1#8, 2#8] = .error .tooWide ∧
    decode .engine [0x0E#8] = .error .unknownTag ∧ decode .engine [0x06#8, 2#8, 1#8] = .error .notABit := by decide
theorem test_tableWord_bus : decodeTableWord 8 0x3 = some .rdData ∧ decodeTableWord 16 0x20F = some (.wrCell 2#8) := by decide
theorem test_tableWord_cmd0 : decodeTableWord 8 0x24 = some (.cmdFormat 0x24#8) := by decide

/-! ### One operation each -/

/-- R246's example. -/
theorem test_rdStat0_after_reset : look .rdStat0 State.reset (·.out) = some (.data 0x08#8) := by decide
/-- R247's example: drive 0, motor bit, ready and track0. -/
theorem test_rdStat1_example :
    look .rdStat1 { State.reset with
      regs := { Regs.reset with cmd2 := 0x05#8 }
      drives := [{ Drive.blank with signals := { noSignals with ready := true, track0 := true } }] } (·.out)
      = some (.data 0x1A#8) := by decide
theorem test_rdStat1_without_drive : look .rdStat1 State.reset (·.out) = some (.data 0x00#8) := by decide
/-- R248: the byte returned, BYTE and DREQ cleared, FREE kept. -/
theorem test_rdData_acknowledges :
    look .rdData { State.reset with regs := { Regs.reset with rdata := 0x01#8, stat0 := 0x8A#8 } }
      (fun t => (t.out, t.regs.stat0, t.regs.rdata)) = some (.data 0x01#8, 0x08#8, 0x01#8) := by decide
theorem test_rdRsvd2_changes_no_register : look .rdRsvd2 State.reset (·.regs) = some Regs.reset := by decide
theorem test_rdRsvd4_changes_no_register : look (.rdRsvd4 7#3) State.reset (·.regs) = some Regs.reset := by decide
/-- R250's example. -/
theorem test_wrCmd0_starts_the_search :
    look (.wrCmd0 0x03#8) State.reset (fun t => (t.seq.state, t.regs.stat0, t.regs.cmd0))
      = some (.readWaitHeaderSync, 0x00#8, 0x03#8) := by decide
/-- R251's example. -/
theorem test_wrCmd1_example :
    look (.wrCmd1 0x30#8) State.reset (fun t => (t.regs.side, t.regs.sectorSize)) = some (true, 256) := by decide
/-- R252's example. -/
theorem test_wrCmd2_example :
    look (.wrCmd2 0x05#8) State.reset (·.events)
      = some [(some 0, .setSide false), (some 0, .setDirection false), (some 0, .setMotor true)] := by decide
/-- R252: the pulse on a rising STEP bit only; both selects give drive 0. -/
theorem test_wrCmd2_steps_on_a_rising_bit :
    look (.wrCmd2 0x13#8) State.reset (fun t => t.events.getLast?) = some (some (some 0, .stepPulse)) ∧
    look (.wrCmd2 0x13#8) { State.reset with regs := { Regs.reset with cmd2 := 0x10#8 } } (fun t => t.events.length)
      = some 3 := by decide
theorem test_wrData_example :
    look (.wrData 0xA1#8) (withStat0 State.reset 0x8A#8) (fun t => (t.regs.wdata, t.regs.stat0)) = some (0xA1#8, 0x08#8) := by
  decide
theorem test_wrClk_keeps_dreq :
    look (.wrClk 0x0A#8) (withStat0 State.reset 0x82#8) (fun t => (t.regs.clk, t.regs.stat0)) = some (0x0A#8, 0x82#8) := by
  decide
theorem test_wrSect_example : look (.wrSect 3#8) State.reset (·.regs.sect) = some 3#8 := by decide
theorem test_wrTrck_example : look (.wrTrck 5#8) State.reset (·.regs.trck) = some 5#8 := by decide
/-- R257's example. -/
theorem test_wrCell_example :
    look (.wrCell 32#8) State.reset (fun t => (t.pll.period, t.pll.minPeriod, t.pll.maxPeriod, t.pll.adjustBase))
      = some (32, 24, 40, 1) := by decide
/-- R184's example, and CRCERR kept. -/
theorem test_cmdIdle_keeps_crcerr :
    look (.cmdIdle 0x00#8) (withStat0 State.reset 0x8A#8) (·.regs.stat0) = some 0x08#8 ∧
    look (.cmdIdle 0x00#8) (withStat0 State.reset 0x97#8) (·.regs.stat0) = some 0x0C#8 := by decide
/-- R335's example: a stalled format of five ticks erases them. -/
theorem test_cmdIdle_flushes_a_stalled_write :
    look (.cmdIdle 0x00#8) (atTick (writing .format 0 0 0 []) 5) (fun t => (t.fluxCalls, t.wbuf.start))
      = some ([{ drive := some 0, first := 0, stop := 5, flux := [] }], none) := by decide
/-- R188: `stat0 = 0x82`, the mark pair latched verbatim. -/
theorem test_cmdFormat_latches_the_mark :
    look (.cmdFormat 0x04#8) { State.reset with regs := { Regs.reset with wdata := 0xA1#8, clk := 0x0A#8 } }
      (fun t => (t.regs.stat0, t.seq.state, t.tx.verb, t.wbuf.start)) = some (0x82#8, .format, true, some 0) := by decide
theorem test_cmdWriteSector_clears_status :
    look (.cmdWriteSector 0x01#8) (withStat0 State.reset 0x9F#8) (fun t => (t.seq.state, t.regs.stat0))
      = some (.readWaitHeaderSync, 0x00#8) := by decide
theorem test_cmdReadHead_loops :
    look (.cmdReadHead 0x02#8) State.reset (·.seq.state) = some .readWaitHeaderSync := by decide
theorem test_cmdReadSector_keeps_the_adapted_period :
    look (.cmdReadSector 0x03#8) (block .idle 32 0 []) (fun t => (t.seq.state, t.pll.period))
      = some (.readWaitHeaderSync, 32) := by decide
/-- R130's corner cases. -/
theorem test_crcBit_corners :
    look (.crcBit 0x8000#16 false) State.reset (·.out) = some (.word 0x1021#16) ∧
    look (.crcBit 0xFFFF#16 true) State.reset (·.out) = some (.word 0xFFFE#16) := by decide
/-- R131's example. -/
theorem test_crcByte_example : look (.crcByte 0xFFFF#16 0xA1#8) State.reset (·.out) = some (.word 0x443B#16) := by decide
/-- R132's corner case. -/
theorem test_crcOfByte_example : look (.crcOfByte 0xFF#8) State.reset (·.out) = some (.word 0xFF00#16) := by decide
/-- R134's check value over "123456789". -/
theorem test_crc_check_value :
    crcFold 0xFFFF#16 [0x31#8, 0x32#8, 0x33#8, 0x34#8, 0x35#8, 0x36#8, 0x37#8, 0x38#8, 0x39#8] = 0x29B1#16 := by
  decide +kernel
/-- R141's example. -/
theorem test_pllSetClock_rounds_down :
    look (.pllSetClock 50) State.reset (fun t => (t.pll.period, t.pll.minPeriod, t.pll.maxPeriod, t.pll.adjustBase))
      = some (50, 37, 62, 2) := by decide
theorem test_pllReadReset_moves_both_cursors :
    look (.pllReadReset 1000) State.reset (fun t => (t.cur.lastSync, t.cur.windowStart)) = some (1000, 1000) := by decide
/-- R149, first call. -/
theorem test_pllGetNextBit_first_correction :
    look (.pllGetNextBit 5000) (block .read 2000 0 [952, 2857, 4762])
      (fun t => (t.out, t.pll.phaseAdjust, t.pll.freqHist, t.pll.period, t.cur.windowStart))
      = some (.bit true, -31, -1#8, 2000, 2000) := by decide
/-- R149, second call: the nudge. -/
theorem test_pllGetNextBit_second_correction :
    look (.pllGetNextBit 5000)
      { block .read 2000 2000 [952, 2857, 4762] with
        pll := { Pll.reset.setClock 2000 with phaseAdjust := -31, freqHist := -1#8 } }
      (fun t => (t.out, t.pll.phaseAdjust, t.pll.freqHist, t.pll.period, t.cur.windowStart))
      = some (.bit true, -72, -2#8, 1995, 3969) := by decide
/-- R150's example. -/
theorem test_pllWriteNextBit_example :
    look (.pllWriteNextBit true 27680) (writing .writeSector 32 27648 27648 [])
      (fun t => (t.wbuf.ticks, t.cur.windowStart, t.out)) = some ([27664], 27680, .done) := by decide
theorem test_pllWriteNextBit_suspends :
    look (.pllWriteNextBit true 27679) (writing .writeSector 32 27648 27648 []) (fun t => (t.wbuf.ticks, t.out))
      = some ([], .suspend) := by decide
/-- The state of R175's second case before the mark's last data bit. -/
def slipped : State :=
  { block .readWaitHeaderSync 32 0 [16] with
    codec := { Codec.reset with dataReg := 0x0A#8, clkReg := 0x50#8 } }
/-- R175: the swapped match repairs the slip. -/
theorem test_codecReadCell_swapped_match :
    look (.codecReadCell 32) slipped (fun t => (t.codec.dataReg, t.codec.clkReg, t.codec.phase, t.regs.stat0, t.seq.state))
      = some (0xA1#8, 0x0A#8, false, 0x09#8, .readVerifyHeader) := by decide
theorem test_codecReadCell_data_bit :
    look (.codecReadCell 32) { slipped with codec := { Codec.reset with phase := true, crc := 0x8000#16, bitCount := 15 } }
      (fun t => (t.codec.dataReg, t.codec.clkReg, t.codec.crc, t.codec.bitCount)) = some (0x01#8, 0x00#8, 0x0000#16, 0) := by
  decide
/-- R170's raw images. -/
theorem test_sent_images :
    sendByte false { data := 0xA1#8, clk := 0x0A#8, verb := true, prev := true } =
      [false, true, false, false, false, true, false, false, true, false, false, false, true, false, false, true] ∧
    sendByte false { data := 0x4E#8, clk := 0x00#8, verb := false, prev := false } =
      [true, false, false, true, false, false, true, false, false, true, false, true, false, true, false, false] := by decide
/-- R167: a data cell of WRITE_SECTOR goes through the CRC and becomes `tx_prev`. -/
theorem test_codecWriteCell_data_cell :
    look (.codecWriteCell 32)
      { writing .writeSector 32 0 0 [] with
        tx := { Transmit.reset with data := 0x80#8 }, codec := { Codec.reset with bitCount := 1 } }
      (fun t => (t.wbuf.ticks, t.tx.prev, t.codec.crc, t.codec.bitCount)) = some ([16], true, 0x1021#16, 2) := by decide
theorem test_codecWriteCell_format_latches :
    look (.codecWriteCell 32)
      { writing .format 32 0 0 [] with
        regs := { Regs.reset with wdata := 0x4E#8 }, codec := { Codec.reset with bitCount := 15 } }
      (fun t => (t.tx.data, t.regs.stat0, t.codec.bitCount)) = some (0x4E#8, 0x8A#8, 0) := by decide
/-- R231's example. -/
theorem test_wbufStart_example :
    look (.wbufStart 27648) State.reset (·.wbuf) = some { start := some 27648, ticks := [] } := by decide
/-- R233: one call for the interval, erasing what stood in it. -/
theorem test_wbufCommit_replaces_the_interval :
    look (.wbufCommit 20) { block .format 8 20 [3, 12, 20] with wbuf := { start := some 4, ticks := [8, 16] } }
      (fun t => ((t.drives[0]?).map (·.medium), t.wbuf.start)) = some (some (.linear [3, 8, 16, 20]), some 20) := by decide
/-- R234's corner case. -/
theorem test_wbufStop_of_nothing_calls_nothing :
    look (.wbufStop 4) (writing .format 8 4 4 []) (fun t => (t.fluxCalls, t.wbuf.start)) = some ([], none) := by decide
/-- R180's example. -/
theorem test_sync_decodes_whole_cells :
    look .sync (atTick (block .readSkipGap 32 16384 []) 16448) (fun t => (t.cur.windowStart, t.codec.bitCount))
      = some (16448, 2) ∧
    look .sync (atTick (block .readSkipGap 32 16448 []) 16470) (fun t => (t.cur.windowStart, t.codec.bitCount))
      = some (16448, 0) := by decide
/-- R320's example. -/
theorem test_reset_flushes_then_clears :
    look .reset (atTick (writing .format 32 448 480 [464]) 500)
      (fun t => (t.fluxCalls, t.cur.lastSync, t.regs.stat0, t.pll.period))
      = some ([{ drive := some 0, first := 448, stop := 480, flux := [464] }], 500, 0x08#8, 0) := by decide
theorem test_step_runs_a_presented_word :
    (answered (step (State.reset.withFetchWord 8 0x0))).map (·.out) = some (.data 0x08#8) := by decide
/-- R77: on a rotating medium the images of the interval are replaced. -/
theorem test_rotating_write :
    (Medium.rotating 10 [1, 5, 8]).write 24 29 [26] = .rotating 10 [1, 6] ∧
    (Medium.rotating 10 [1, 5, 8]).write 3 15 [4, 7] = .rotating 10 [7] := by decide

/-! ### The boundaries the cells reach: values of 43_sequencer.md -/

/-- A byte 0x55 decoded as the second of READ, the first not collected, the CRC not zero. -/
def overrun : State :=
  { withStat0 (block .read 32 0 []) 0x82#8 with
    seq := { state := .read, byteCount := 1#16 }, codec := { Codec.reset with dataReg := 0x55#8, crc := 1#16 } }
theorem test_read_overrun_aborts : (readBoundary false overrun).regs = { ready with stat0 := 0x8E#8 } := by decide
theorem test_header_byte_3_wrong_restarts :
    (readBoundary false (atByte (block .readVerifyHeader 32 0 []) 2 0xFB#8)).seq
      = { state := .readWaitHeaderSync, byteCount := 0#16 } := by decide

/-! ### Witnesses: the hypotheses of each statement can be met, each clause at a boundary -/

/-- One operation presented. -/
def presenting (s : State) (fmt : Format) (bytes : List Byte) : State :=
  s.present { fmt := fmt, bytes := bytes, now := s.earliestTick, inputs := [] }
/-- A build that refuses mode 2. -/
def refusing : State := State.powerOn { Config.standard with readHead := .refuse } 0
/-- A build in which an overrun does not abort. -/
def continuing (s : State) : State := { s with cfg := { s.cfg with readOverrun := .proceed } }

/-- An operation presented at tick 100 after one at tick 127, in a cell that began at 96. -/
def late : State :=
  (atTick (block .read 32 96 []) 127).present { fmt := .bus, bytes := [0x0#8], now := 100, inputs := [] }
/-- R331: the tick of the operation before counts, not `last_sync` alone. -/
theorem test_step_refuses_an_earlier_tick : step late = .refused .timeBackward := rfl
theorem witness_DecodeEncodeRoundTrip :
    (Instr.rdRsvd4 4#3).wf = true ∧ (Instr.rdRsvd4 7#3).wf = true ∧ (Instr.cmdIdle 0xF8#8).wf = true ∧
    (Instr.cmdFormat 0xFC#8).wf = true ∧ (Instr.cmdWriteSector 0xFD#8).wf = true ∧ (Instr.cmdReadHead 0x02#8).wf = true ∧
    (Instr.cmdReadSector 0x03#8).wf = true ∧ (Instr.pllGetNextBit 65536).wf = true := by decide
theorem witness_DecodingGivesWellFormedOperations : decode .cmd0 [0xFC#8] = .ok (.cmdFormat 0xFC#8) := by decide
theorem witness_AccessesOutsideTheWindowAreRefused :
    ((presenting State.reset .bus [16#8]).inbox.head?.map (fun r => (r.fmt, r.bytes))) = some (.bus, [16#8]) ∧
    16 ≤ (16#8).toNat ∧ (15#8).toNat < 16 ∧ 2 ≤ [1#8, 2#8].length := by decide
theorem witness_StepRunsTheDecodedOperation :
    State.reset.inbox = [] ∧ decode .bus [0x3#8] = .ok .rdData ∧ decode .bus [0x10#8] = .error .offsetOutOfRange ∧
    (presenting State.reset .bus [0x3#8]).inbox =
      { fmt := .bus, bytes := [0x3#8], now := 0, inputs := [] } :: State.reset.inbox ∧
    State.reset.now ≤ 0 ∧ (late.inbox.head?.map (fun r => decide (r.now < late.now))) = some true ∧
    decodeTableWord 4 0x3 = some .rdData := by decide
/-- For the statements whose only hypothesis is a tick that is not before `last_sync`, at its boundary and past it. -/
theorem witness_timed_operations :
    State.reset.cur.lastSync ≤ State.reset.now ∧ State.reset.regs.stat0 &&& 0x70#8 = 0#8 ∧
    (atTick State.reset 7).cur.lastSync ≤ (atTick State.reset 7).now := by decide
theorem witness_ReadingStatus1SamplesTheSelectedDrive :
    ((sync 0 State.reset).regs.cmd2.getLsbD 0 = false ∧ (sync 0 State.reset).regs.cmd2.getLsbD 1 = false) ∧
    ((sync 0 (block .idle 32 0 [])).regs.cmd2.getLsbD 0 = true ∧
      (sync 0 (block .idle 32 0 [])).drives[0]? = some { Drive.blank with medium := .linear [] }) ∧
    (0x02#8).getLsbD 0 = false ∧ (0x02#8).getLsbD 1 = true ∧ (block .idle 32 0 []).drives[1]? = some Drive.blank := by decide
theorem witness_ResetLeavesTheTableOfResetValues :
    (∃ cfg, State.reset = State.powerOn cfg 0) ∧
    ∃ r t : State, r.now = 7 ∧ r.cur.lastSync ≤ 7 ∧ exec .reset r = .next t :=
  ⟨⟨_, rfl⟩, ⟨atTick (block .read 32 0 []) 7, _, by decide, by decide, rfl⟩⟩
theorem witness_WritingCmd0IssuesTheSelectedCommand :
    State.reset.cfg.readHead = .loop ∧ 0x02#8 &&& 0x03#8 = 0x02#8 ∧ refusing.cfg.readHead = .refuse ∧
    0x03#8 &&& 0x03#8 ≠ 0x02#8 := by decide
theorem witness_UnsupportedAndBackwardOperationsAreRefused :
    refusing.cfg.readHead = .refuse ∧ 0xFE#8 &&& 0x03#8 = 0x02#8 ∧
    (atTick (block .idle 32 8 []) 7).now < (atTick (block .idle 32 8 []) 7).cur.lastSync ∧ Instr.sync.external = true ∧
    State.reset.cfg.readHead = .loop ∧
    (late.inbox.head?.map (fun r => decide (r.now < late.now))) = some true := by decide
theorem witness_CommitAndStopHandOverTheInterval :
    State.reset.wbuf.start = none ∧ (writing .format 8 4 12 [8]).wbuf.start = some 4 ∧ 4 ≠ 12 := by decide
theorem witness_EveryMediumAnswersItsLeastTransition :
    (Medium.linear [3, 9]).wf = true ∧ (Medium.linear [3, 9]).next 3 = some 3 ∧ (Medium.linear [3, 9]).next 10 = none ∧
    (Medium.rotating 10 [0, 9]).wf = true ∧ (Medium.rotating 10 [0, 9]).next 10 = some 10 ∧ (Medium.external 0 []).wf = true ∧
    (block .idle 32 0 []).drives[0]? = some { Drive.blank with medium := .linear [] } ∧ ready.cmd2.getLsbD 0 = true ∧
    State.reset.regs.cmd2.getLsbD 0 = false ∧ State.reset.regs.cmd2.getLsbD 1 = false := by decide
theorem witness_WriteFluxReplacesTheInterval :
    (Medium.linear [3, 9]).wf = true ∧ (∀ rev l, Medium.linear [3, 9] ≠ .rotating rev l) ∧ 3 < 9 ∧
    [3, 8].Pairwise (· < ·) ∧ (∀ x ∈ [3, 8], 3 ≤ x ∧ x < 9) ∧ State.reset.drives[1]? = some Drive.blank ∧ 0 ≠ 1 :=
  ⟨by decide, fun _ _ h => (by cases h), by decide, by decide, by decide, by decide, by decide⟩
theorem witness_RotatingWriteReplacesTheImages :
    (Medium.rotating 10 [1, 5, 8]).wf = true ∧ [24, 28].Pairwise (· < ·) ∧ (∀ x ∈ [24, 28], 24 ≤ x ∧ x < 33) ∧ 33 - 24 < 10 ∧
    ¬ 34 - 24 < 10 := by decide
theorem witness_SplitWritesLeaveTheSameMedium :
    (Medium.rotating 10 [1, 5, 8]).wf = true ∧ (∀ x ∈ [4, 6], 4 ≤ x ∧ x < 7) ∧ (∀ x ∈ [7, 19], 7 ≤ x ∧ x < 20) ∧
    [4, 6].Pairwise (· < ·) ∧ [7, 19].Pairwise (· < ·) := by decide
/-- A cell length of 32 commanded while a correction of -65 stands: the window that starts at 300 ends at 267. -/
def shrunk : State := { block .read 32 300 [] with pll := { Pll.reset.setClock 32 with phaseAdjust := -65 } }
/-- The same in a build with NEGATIVE_WINDOW_POLICY = Hold. -/
def holding (s : State) : State := { s with cfg := { s.cfg with negativeWindow := .hold } }
/-- The window of `block .read 32 8 l` is `[8, 40)`. -/
theorem witness_ReadCellDecidesAndCorrects :
    1 ≤ (block .read 32 8 []).pll.period ∧
    1 ≤ shrunk.pll.period ∧ shrunk.cfg.negativeWindow = .follow ∧ (holding shrunk).cfg.negativeWindow = .hold ∧
    nextTransition shrunk 300 = none ∧ (shrunk.cur.windowStart : Int) + shrunk.pll.period + shrunk.pll.phaseAdjust < 300 ∧
    (39 : Int) < 8 + 32 + 0 ∧ (8 + 32 + 0 : Int) ≤ 40 ∧ nextTransition (block .read 32 8 []) 8 = none ∧
    nextTransition (block .read 32 8 [40]) 8 = some 40 ∧ nextTransition (block .read 32 8 [39]) 8 = some 39 ∧
    nextTransition (block .read 32 8 [8]) 8 = some 8 := by decide
/-- R142 worked by hand: `300 + 32 - 65 = 267`, where R144 puts the cursors; a build that holds them leaves them at 300 (R38). -/
theorem test_pllGetNextBit_negative_window :
    look (.pllGetNextBit 267) shrunk (fun t => (t.out, t.pll.phaseAdjust, t.cur.windowStart)) = some (.bit false, 0, 267) ∧
    look (.pllGetNextBit 267) (holding shrunk) (fun t => (t.out, t.pll.phaseAdjust, t.cur.windowStart))
      = some (.bit false, 0, 300) ∧
    look (.pllGetNextBit 266) shrunk (·.out) = some .suspend := by decide
theorem witness_NegativeWindowIsEmptyAndNeedsAChangedCellLength :
    State.reset.pll.phaseAdjust = 0 ∧ (∃ t, exec (.pllSetClock 1) State.reset = .next t) ∧
    Steady 32 (block .read 32 8 []) ∧ Steady 1 (block .read 1 8 []) ∧ shrunk.pll.windowOk = false ∧
    (shrunk.pll.period : Int) + shrunk.pll.phaseAdjust < 0 ∧ shrunk.cfg.negativeWindow = .follow ∧
    (holding shrunk).cfg.negativeWindow = .hold ∧
    (266 : Int) < (shrunk.cur.windowStart : Int) + shrunk.pll.period + shrunk.pll.phaseAdjust ∧
    (shrunk.cur.windowStart : Int) + shrunk.pll.period + shrunk.pll.phaseAdjust ≤ 267 :=
  ⟨rfl, ⟨_, rfl⟩, ⟨by decide, by decide, by decide, by decide⟩, ⟨by decide, by decide, by decide, by decide⟩,
    by decide, by decide, by decide, by decide, by decide, by decide⟩
/-- R190: a search that ended on the third mark of a header takes 0xFE for byte 1, which is no mark (log 24). -/
theorem test_header_found_on_its_third_mark_fails_at_byte_1 :
    (readBoundary false (atByte (block .readVerifyHeader 32 0 []) 0 0xFE#8)).seq
      = { state := .readWaitHeaderSync, byteCount := 0#16 } := by decide
/-- A write whose buffer one more transition fills. -/
def filling : State :=
  { writing .format 32 0 32 [16] with cfg := { Config.standard with wbufCap := 2 } }
theorem witness_WriteCellBuffersItsTransition :
    (63 < filling.cur.windowStart + filling.pll.period ∧ filling.cur.windowStart + filling.pll.period ≤ 64) ∧
    (filling.wbuf.ticks ++ [48]).length = filling.cfg.wbufCap ∧ (filling.wbuf.ticks ++ []).length ≠ filling.cfg.wbufCap := by
  decide
theorem witness_PllIsStableWithoutJitter :
    (block .read 32 0 [16, 48]).pll.period = 32 ∧ (block .read 32 0 [16, 48]).pll.phaseAdjust = 0 ∧
    (block .read 32 0 [16, 48]).pll.freqHist = 0#8 ∧
    (∀ k, k < 2 → nextTransition (block .read 32 0 [16, 48]) (0 + k * 32) = some (0 + k * 32 + (32 - 32 / 2))) ∧
    (block .read 32 0 [15, 47]).pll.adjustBase < 32 ∧ (block .read 32 0 [15, 47]).pll.minPeriod ≤ 32 ∧
    32 ≤ (block .read 32 0 [15, 47]).pll.maxPeriod ∧
    (∀ k, k < 2 → nextTransition (block .read 32 0 [15, 47]) (0 + k * 32) = some (0 + k * 32 + (32 - 32 / 2) - 1)) := by decide
theorem witness_CodecReadCellFeedsAndCompares :
    31 < ((slipped.cur.windowStart : Int) + slipped.pll.period + slipped.pll.phaseAdjust).toNat ∧
    ((slipped.cur.windowStart : Int) + slipped.pll.period + slipped.pll.phaseAdjust).toNat ≤ 32 ∧
    (pllGetNextBit 32 slipped).map (·.1) = some true ∧ syncMatch slipped.regs (slipped.codec.feed true) = true ∧
    syncMatch ready (Codec.reset.feed true) = false ∧
    syncMatch ready ({ Codec.reset with bitCount := 15 }.feed true) = false := by decide
theorem witness_CodecWriteCellSendsTheNextBit :
    63 < filling.cur.windowStart + filling.pll.period ∧ filling.cur.windowStart + filling.pll.period ≤ 64 ∧
    filling.codec.bitCount.val ≠ 15 ∧ ({ Codec.reset with bitCount := 15 } : Codec).bitCount.val = 15 := by decide
theorem witness_SentByteDecodesBack : Codec.reset.phase = false := by decide
theorem witness_MfmCellsAreNeverAdjacentOnes :
    ({ data := 0xA1#8, clk := 0x0A#8, verb := true, prev := true } : Transmit).verb = true ∧ Transmit.reset.verb = false := by
  decide
theorem witness_HeaderSearchEndsAtAMark : (block .readWaitHeaderSync 32 0 []).seq.state = .readWaitHeaderSync := by decide
theorem witness_HeaderVerificationChecksEachByte :
    (atByte (block .readVerifyHeader 32 0 []) 0 0xA1#8).seq.state = .readVerifyHeader ∧
    (atByte (block .readVerifyHeader 32 0 []) 8 0#8).seq.byteCount.toNat ≤ 8 ∧
    (atByte (block .readVerifyHeader 32 0 []) 8 0#8).codec.crc = 0#16 ∧
    (atByte (block .readVerifyHeader 32 0 []) 2 0xFE#8).codec.dataReg = 0xFE#8 ∧
    (atByte (block .readVerifyHeader 32 0 []) 2 0xFB#8).codec.dataReg ≠ 0xFE#8 := by decide
theorem witness_GapsAreCountedInBytes :
    (atByte (block .readSkipGap 32 0 []) 26 0#8).seq = { state := .readSkipGap, byteCount := 26#16 } ∧
    (atByte (block .readSkipGap 32 0 []) 25 0#8).seq.byteCount ≠ 26#16 ∧
    (atByte (block .writeSkipGap 32 0 []) 21 0#8).seq = { state := .writeSkipGap, byteCount := 21#16 } ∧
    (atByte (block .writeSkipGap 32 0 []) 20 0#8).seq.byteCount ≠ 21#16 := by decide
theorem witness_SectorSearchTimesOutOrFindsTheDataMark :
    (atByte (block .readWaitSectorSync 32 0 []) 41 0#8).seq = { state := .readWaitSectorSync, byteCount := 41#16 } ∧
    (atByte (block .readWaitSectorSync 32 0 []) 40 0#8).seq.byteCount ≠ 41#16 ∧
    (atByte (block .readVerifySector 32 0 []) 2 0xFB#8).seq = { state := .readVerifySector, byteCount := 2#16 } ∧
    (atByte (block .readVerifySector 32 0 []) 2 0xFB#8).codec.dataReg = 0xFB#8 ∧
    (atByte (block .readVerifySector 32 0 []) 2 0xFE#8).codec.dataReg ≠ 0xFB#8 ∧
    (atByte (block .readVerifySector 32 0 []) 1 0#8).seq.byteCount ≠ 2#16 := by decide
/-- With size code 0: bytes 128, 129 and 130 of READ. -/
theorem witness_ReadPublishesOverrunsOrCompletes :
    (atByte overrun 127 0#8).seq = { state := .read, byteCount := 127#16 } ∧
    127 + 1 ≤ 128 * 2 ^ (overrun.regs.cmd1.extractLsb' 5 2).toNat ∧ overrun.regs.stat0.getLsbD 1 = true ∧
    overrun.cfg.readOverrun = .abort ∧ (continuing overrun).cfg.readOverrun = .proceed ∧
    (block .read 32 0 []).regs.stat0.getLsbD 1 = false ∧ 128 + 1 = 128 * 2 ^ (overrun.regs.cmd1.extractLsb' 5 2).toNat + 1 ∧
    128 * 2 ^ (overrun.regs.cmd1.extractLsb' 5 2).toNat + 2 ≤ 129 + 1 ∧ (atByte overrun 1025 0#8).seq.byteCount.toNat ≤ 1025 := by
  decide
theorem witness_WriteBoundariesSupplyTheNextByte :
    (atByte (block .writeSectorSync 32 0 []) 11 0#8).seq = { state := .writeSectorSync, byteCount := 11#16 } ∧
    (atByte (block .writeSectorSync 32 0 []) 10 0#8).seq.byteCount ≠ 11#16 ∧
    (atByte (block .writeSector 32 0 []) 131 0#8).seq = { state := .writeSector, byteCount := 131#16 } ∧
    128 * 2 ^ (ready.cmd1.extractLsb' 5 2).toNat + 4 ≤ 131 + 1 ∧ 130 + 1 < 128 * 2 ^ (ready.cmd1.extractLsb' 5 2).toNat + 4 ∧
    (atByte (block .writeSector 32 0 []) 1027 0#8).seq.byteCount.toNat ≤ 1027 ∧
    (block .format 32 0 []).seq.state = .format := by decide
theorem witness_WriteCrcSendsTheLowByteThenEnds :
    (atByte (block .writeCrc 32 0 []) 0 0#8).seq = { state := .writeCrc, byteCount := 0#16 } ∧
    (atByte (block .writeCrc 32 0 []) 1 0#8).seq = { state := .writeCrc, byteCount := 1#16 } := by decide
theorem witness_SyncIsTheDrivingLoop :
    (block .read 32 0 []).cur.lastSync = (block .read 32 0 []).cur.windowStart ∧ (0 : Nat) ≤ (block .read 32 0 []).cur.lastSync ∧
    (block .read 32 0 []).cur.lastSync < 32 ∧ (block .read 32 0 []).seq.state ≠ .idle ∧ (block .read 32 0 []).pll.period ≠ 0 ∧
    SeqState.read.isRead = true ∧ (codecReadCell 31 (block .read 32 0 [])).isSome = false ∧
    (codecReadCell 32 (block .read 32 0 [])).isSome = true ∧ SeqState.format.isRead = false ∧
    (codecWriteCell 31 (block .format 32 0 [])).isSome = false ∧ (codecWriteCell 32 (block .format 32 0 [])).isSome = true ∧
    (block .idle 32 0 []).seq.state = .idle ∧ (block .read 0 0 []).pll.period = 0 := by decide
/-- For SyncLeavesNoWholeCell, SyncIsIdempotentAndComposes and PollingMakesNoDifference. -/
theorem witness_sync_statements :
    (block .read 32 0 []).cur.lastSync = (block .read 32 0 []).cur.windowStart ∧
    (block .read 32 0 []).cur.lastSync ≤ 40 ∧ (40 : Nat) ≤ 64 ∧ Instr.rdStat0.external = true ∧
    40 ≤ (atTick (block .read 32 0 []) 64).now ∧ (sync 0 State.reset).seq.state = .idle ∧
    (sync 40 (block .read 32 0 [])).seq.state ≠ .idle ∧ (sync 40 (block .read 32 0 [])).pll.period ≠ 0 := by decide
/-- For CellsMakeOnlyTheTransitionsOfTheTable and ReadCellsLeaveTheMediaAlone. -/
theorem witness_cell_statements :
    (∃ t, exec (.codecReadCell 32) slipped = .next t) ∧ (∃ t, exec (.codecWriteCell 64) filling = .next t) ∧
    (∃ t, exec (.pllGetNextBit 32) slipped = .next t) := ⟨⟨_, rfl⟩, ⟨_, rfl⟩, ⟨_, rfl⟩⟩
theorem witness_CrcErrorIsSticky :
    (∃ t, exec .rdStat0 (withStat0 State.reset 0x04#8) = .next t) ∧ Instr.rdStat0.clearsCrcError = false ∧
    (withStat0 State.reset 0x04#8).regs.stat0.getLsbD 2 = true ∧
    (∃ t, exec (.cmdFormat 0x04#8) (withStat0 State.reset 0x04#8) = .next t) ∧
    (Instr.cmdFormat 0x04#8).clearsCrcError = true :=
  ⟨⟨_, rfl⟩, by decide, by decide, ⟨_, rfl⟩, by decide⟩
/-- A read cell that completes the first byte of READ. -/
def publishing : State :=
  { block .read 32 0 [] with codec := { Codec.reset with bitCount := 15, dataReg := 0x55#8 } }
theorem witness_RdataChangesOnlyByPublication :
    (Instr.codecReadCell 32).external = false ∧
    look (.codecReadCell 32) publishing (fun t => decide (t.regs.rdata ≠ publishing.regs.rdata)) = some true := by decide
theorem witness_ParametersAndPortsNeverChange :
    (∃ t, exec .sync State.reset = .next t ∧ t.drives[1]? = some Drive.blank) ∧ (∀ v, Instr.sync ≠ .wrCmd2 v) ∧
    State.reset.drives[1]? = some Drive.blank := ⟨⟨_, rfl, by decide⟩, fun _ h => (by cases h), by decide⟩
theorem witness_CursorsNeverMoveBackUnlessANegativeWindowIsFollowed :
    ¬ 0 ≤ (shrunk.pll.period : Int) + shrunk.pll.phaseAdjust ∧ (holding shrunk).cfg.negativeWindow = .hold ∧
    0 ≤ ((block .read 32 8 []).pll.period : Int) + (block .read 32 8 []).pll.phaseAdjust ∧
    shrunk.cur.lastSync = shrunk.cur.windowStart ∧ (∀ a, Instr.pllGetNextBit 300 ≠ .pllReadReset a) ∧
    (∃ t, exec (.pllGetNextBit 300) shrunk = .next t) ∧ (300 : Nat) ≤ 300 ∧ ∃ t, exec (.pllReadReset 300) shrunk = .next t :=
  ⟨by decide, by decide, by decide, by decide, fun _ h => (by cases h), ⟨_, rfl⟩, by decide, ⟨_, rfl⟩⟩
theorem witness_NoDriveReadsZerosAndDropsCommits :
    State.reset.regs.cmd2.getLsbD 0 = false ∧ State.reset.regs.cmd2.getLsbD 1 = false ∧ windowEnd State.reset ≤ 0 := by decide
theorem reset_Inv : Inv State.reset :=
  ⟨by decide, by decide, by decide, by decide, by decide, by decide, by decide⟩
/-- The invariants hold, and a step answers, of reset with a bus read presented. -/
theorem witness_EveryStepKeepsInv :
    Inv (presenting State.reset .bus [0x3#8]) ∧ ∃ t, step (presenting State.reset .bus [0x3#8]) = .next t :=
  ⟨⟨by decide, by decide, by decide, by decide, by decide, by decide, by decide⟩, ⟨_, rfl⟩⟩
theorem witness_ExternalStepsKeepBlockInv :
    BlockInv (presenting State.reset .bus [0x3#8]) ∧
    (∀ r ∈ (presenting State.reset .bus [0x3#8]).inbox.head?, r.external = true) ∧
    ∃ t, step (presenting State.reset .bus [0x3#8]) = .next t :=
  ⟨{ basic := witness_EveryStepKeepsInv.1, params := by decide, onTime := by decide, writing := by decide, emptied := by decide,
     interval := fun _ h => (by cases h), rising := by decide, room := by decide, bounds := by decide, still := by decide },
   by decide, ⟨_, rfl⟩⟩
/-- With TICK_HZ left open, and stated; a frequency that is not positive is no build. -/
theorem witness_ResetMeetsTheInvariants :
    Config.standard.wf = true ∧ { Config.standard with tickHz := some 4000000 }.wf = true ∧
    { Config.standard with tickHz := some 0 }.wf = false := by decide

end Sys2Proof.Tests
end

/-! PROOF. What an operation that answers has done: `Sync(now)`, where it has a `now`, and then its own part. -/

namespace Sys2Proof.Machine

/-- The own part of an operation, after the `Sync(now)` of one that has a `now` (20_memory.md R82, 45_bus_ops.md R245). -/
def ownPart (i : Instr) (s : State) : State :=
  match i with
  | .rdStat0 => s.answer (.data s.regs.stat0)
  | .rdStat1 => s.answer (.data (status1 s))
  | .rdRsvd2 | .rdRsvd4 _ => reservedRead s
  | .rdData => consumeData s
  | .wrCmd0 v => (startCommand v s).answer .nothing
  | .wrCmd1 v => writeRegs (fun r => { r with cmd1 := v }) s
  | .wrCmd2 v => (selectDrive v s).answer .nothing
  | .wrData v => (writeRegs (fun r => { r with wdata := v }) s).byteAnswered
  | .wrClk v => writeRegs (fun r => { r with clk := v }) s
  | .wrSect v => writeRegs (fun r => { r with sect := v }) s
  | .wrTrck v => writeRegs (fun r => { r with trck := v }) s
  | .wrCell v => (commandCell v s).answer .nothing
  | .cmdIdle v => (idleCommand v s).answer .nothing
  | .cmdFormat v => (formatCommand v s).answer .nothing
  | .cmdWriteSector v | .cmdReadHead v | .cmdReadSector v => (searchCommand v s).answer .nothing
  | .crcBit crc bit => s.answer (.word (crcBit crc bit))
  | .crcByte crc b => s.answer (.word (crcByte crc b))
  | .crcOfByte b => s.answer (.word (crcOfByte b))
  | .pllSetClock p => (setClock p s).answer .nothing
  | .pllReadReset t => (pllReadReset t s).answer .nothing
  | .pllGetNextBit limit => ((pllGetNextBit limit s).map (fun r => r.2.answer (.bit r.1))).getD (s.answer .suspend)
  | .pllWriteNextBit bit limit => ((pllWriteNextBit bit limit s).map (State.answer · .done)).getD (s.answer .suspend)
  | .codecReadCell limit => ((codecReadCell limit s).map (State.answer · .done)).getD (s.answer .suspend)
  | .codecWriteCell limit => ((codecWriteCell limit s).map (State.answer · .done)).getD (s.answer .suspend)
  | .wbufStart t => (startWriting t s).answer .nothing
  | .wbufCommit t => (commit t s).answer .nothing
  | .wbufStop t => (stopWriting t s).answer .nothing
  | .sync => s.answer .nothing
  | .reset => (clearState s.now (flushWrite s)).answer .nothing

/-- An operation of the consumer or the reset port that answers comes at or after `last_sync`, and is `Sync(now)` and its own
part. -/
theorem exec_external {i : Instr} {s t : State} (hx : i.external = true) (h : exec i s = .next t) :
    s.cur.lastSync ≤ s.now ∧ t = ownPart i (sync s.now s) := by
  cases i with
  | wrCmd0 v =>
    simp only [exec, execWrCmd0] at h
    split at h
    · cases h
    · exact afterSync_eq_next h
  | cmdReadHead v =>
    simp only [exec, execCmdReadHead] at h
    split at h
    · cases h
    · exact afterSync_eq_next h
  | rdStat0 | rdStat1 | rdRsvd2 | rdData | rdRsvd4 | wrCmd1 | wrCmd2 | wrData | wrClk | wrSect | wrTrck | wrCell | cmdIdle
  | cmdFormat | cmdWriteSector | cmdReadSector | sync | reset => exact afterSync_eq_next h
  | crcBit | crcByte | crcOfByte | pllSetClock | pllReadReset | pllGetNextBit | pllWriteNextBit | codecReadCell | codecWriteCell
  | wbufStart | wbufCommit | wbufStop => cases hx

/-- An engine operation is its own part alone. -/
theorem exec_engine {i : Instr} {s t : State} (hx : i.external = false) (h : exec i s = .next t) : t = ownPart i s := by
  cases i with
  | pllGetNextBit limit =>
    simp only [exec, execPllGetNextBit] at h
    cases hp : pllGetNextBit limit s <;> simp only [hp, Host.Outcome.next.injEq] at h <;> simp [ownPart, hp, h]
  | pllWriteNextBit bit limit =>
    simp only [exec, execPllWriteNextBit] at h
    cases hp : pllWriteNextBit bit limit s <;> simp only [hp, Host.Outcome.next.injEq] at h <;> simp [ownPart, hp, h]
  | codecReadCell limit =>
    simp only [exec, execCodecReadCell] at h
    cases hp : codecReadCell limit s <;> simp only [hp, Host.Outcome.next.injEq] at h <;> simp [ownPart, hp, h]
  | codecWriteCell limit =>
    simp only [exec, execCodecWriteCell] at h
    cases hp : codecWriteCell limit s <;> simp only [hp, Host.Outcome.next.injEq] at h <;> simp [ownPart, hp, h]
  | crcBit | crcByte | crcOfByte | pllSetClock | pllReadReset | wbufStart | wbufCommit | wbufStop =>
    exact (Host.Outcome.next.inj h).symm
  | rdStat0 | rdStat1 | rdRsvd2 | rdData | rdRsvd4 | wrCmd0 | wrCmd1 | wrCmd2 | wrData | wrClk | wrSect | wrTrck | wrCell
  | cmdIdle | cmdFormat | cmdWriteSector | cmdReadHead | cmdReadSector | sync | reset => cases hx

/-- What `Sync` keeps and the own part of an operation keeps, the operation keeps. -/
theorem exec_keeps {P : State → Prop} {i : Instr} {s t : State} (hsync : ∀ u, P u → P (sync u.now u))
    (hown : ∀ u, P u → P (ownPart i u)) (hs : P s) (h : exec i s = .next t) : P t := by
  cases hx : i.external with
  | true =>
    rw [(exec_external hx h).2]
    exact hown _ (hsync s hs)
  | false =>
    rw [exec_engine hx h]
    exact hown s hs

/-- The shape of the four engine operations that can suspend: what holds of the cell's result, and of the answer Suspend, holds. -/
theorem map_getD_keeps {α : Type} {P : State → Prop} {o : Option α} {f : α → State} {s : State}
    (hsome : ∀ a, o = some a → P (f a)) (hnone : P s) : P ((o.map f).getD s) := by
  cases o with
  | none => exact hnone
  | some a => exact hsome a rfl

end Sys2Proof.Machine

/-! PROOF. What a cell does to the byte registers: CRCERR is never cleared (10_state.md R44), and `rdata` is written by the READ
state's publication alone (10_state.md R21, 43_sequencer.md R197). -/

namespace Sys2Proof.Machine

/-! ### The registers after a boundary, a cell decision, a commit -/

theorem commit_regs (t : Nat) (s : State) : (commit t s).regs = s.regs := by
  rcases commit_cases t s with ⟨-, h⟩ | ⟨a, -, -, h⟩
  · rw [h]
  · rw [h]
    rfl

theorem stopWriting_regs (t : Nat) (s : State) : (stopWriting t s).regs = s.regs := commit_regs t s

theorem flushWrite_regs (s : State) : (flushWrite s).regs = s.regs := by rw [flushWrite_frame]

/-- A PLL decision changes neither the registers nor the sequencer. -/
theorem pllGetNextBit_regs_seq {limit : Nat} {s t : State} {b : Bool} (h : pllGetNextBit limit s = some (b, t)) :
    t.regs = s.regs ∧ t.seq = s.seq := by
  rcases (pllGetNextBit_eq_some h).2 with ⟨-, -, rfl⟩ | ⟨edge, -, -, rfl⟩ <;> exact ⟨rfl, rfl⟩

theorem commitIfFull_regs (t : Nat) (s : State) : (commitIfFull t s).regs = s.regs := by
  unfold commitIfFull
  split
  · exact commit_regs t s
  · rfl

theorem pllWriteNextBit_regs {bit : Bool} {limit : Nat} {s t : State} (h : pllWriteNextBit bit limit s = some t) :
    t.regs = s.regs := by
  rw [(pllWriteNextBit_eq_some h).2, commitIfFull_regs]
  cases bit <;> rfl

theorem readBoundary_of_read {synced : Bool} {s : State} (hq : s.seq.state = .read) :
    readBoundary synced s = readBoundaryRead s := by
  unfold readBoundary
  rw [hq]

/-- Outside READ a read boundary leaves the registers, or clears SYNC where writing starts (43_sequencer.md R194). -/
theorem readBoundary_regs (synced : Bool) {s : State} (hq : s.seq.state ≠ .read) :
    (readBoundary synced s).regs = s.regs ∨ (readBoundary synced s).regs = (s.setSync false).regs := by
  unfold readBoundary
  cases hstate : s.seq.state with
  | read => exact absurd hstate hq
  | writeSkipGap =>
    simp only [writeSkipGapBoundary]
    split
    · exact .inr rfl
    · exact .inl rfl
  | readWaitHeaderSync =>
    simp only [waitHeaderBoundary]
    split <;> exact .inl rfl
  | readVerifyHeader =>
    simp only [verifyHeaderBoundary]
    repeat' split
    all_goals exact .inl rfl
  | readSkipGap =>
    simp only [readSkipGapBoundary]
    split <;> exact .inl rfl
  | readWaitSectorSync =>
    simp only [waitSectorBoundary]
    repeat' split
    all_goals exact .inl rfl
  | readVerifySector =>
    simp only [verifySectorBoundary]
    repeat' split
    all_goals exact .inl rfl
  | idle | writeSectorSync | writeSector | writeCrc | format => exact .inl rfl

/-- The end of WRITE_CRC sets FREE (43_sequencer.md R202). -/
theorem writeComplete_regs (s : State) : (writeComplete s).regs = (s.setFlags maskFREE).regs := by
  rw [State.setFlags_eq, ← stopWriting_regs s.cur.windowStart s]
  rfl

/-- A write boundary leaves the registers, or sets flags of status0. -/
theorem writeBoundary_regs (s : State) :
    (writeBoundary s).regs = s.regs ∨ ∃ m, (writeBoundary s).regs = (s.setFlags m).regs := by
  unfold writeBoundary
  cases s.seq.state with
  | writeSectorSync =>
    simp only [writeSyncBoundary]
    split
    · exact .inr ⟨_, rfl⟩
    · exact .inl rfl
  | writeSector =>
    simp only [writeSectorBoundary]
    split
    · exact .inl rfl
    · exact .inr ⟨_, rfl⟩
  | writeCrc =>
    simp only [writeCrcBoundary]
    split
    · exact .inl rfl
    · exact .inr ⟨_, writeComplete_regs s⟩
  | format => exact .inr ⟨_, rfl⟩
  | idle | readWaitHeaderSync | readVerifyHeader | readSkipGap | readWaitSectorSync | readVerifySector | read
  | writeSkipGap => exact .inl rfl

/-! ### CRCERR -/

/-- The CRCERR bit of status0 (10_state.md R44). -/
def State.crcError (s : State) : Bool := s.regs.stat0.getLsbD 2

theorem State.crcError_congr {s t : State} (h : t.regs.stat0 = s.regs.stat0) : t.crcError = s.crcError := by
  rw [State.crcError, h, State.crcError]

theorem State.setFlags_crcError {s : State} (h : s.crcError = true) (m : Byte) : (s.setFlags m).crcError = true := by
  rw [State.crcError] at *
  simp [h]

theorem State.clearFlags_crcError {s : State} (h : s.crcError = true) {m : Byte} (hm : m.getLsbD 2 = false) :
    (s.clearFlags m).crcError = true := by
  rw [State.crcError] at *
  simp only [State.clearFlags_eq, State.withRegs_regs, BitVec.getLsbD_and, BitVec.getLsbD_not, h, hm]
  rfl

theorem State.setSync_crcError {s : State} (h : s.crcError = true) (b : Bool) : (s.setSync b).crcError = true := by
  cases b with
  | true => exact State.setFlags_crcError h maskSYNC
  | false => exact State.clearFlags_crcError h (by decide)

theorem State.latchCrcError_crcError {s : State} (h : s.crcError = true) : s.latchCrcError.crcError = true := by
  unfold State.latchCrcError
  split
  · exact State.setFlags_crcError h maskCRCERR
  · exact h

theorem takeByte_crcError {s : State} (h : s.crcError = true) : (takeByte s).crcError = true := by
  unfold takeByte
  split
  · exact State.setFlags_crcError h _
  · exact h

theorem readBoundaryRead_crcError {s : State} (h : s.crcError = true) : (readBoundaryRead s).crcError = true := by
  unfold readBoundaryRead
  split
  · exact State.setFlags_crcError (State.latchCrcError_crcError h) maskFREE
  · split
    · exact State.setFlags_crcError (State.latchCrcError_crcError (takeByte_crcError h)) maskFREE
    · exact takeByte_crcError h

theorem readBoundary_crcError (synced : Bool) {s : State} (h : s.crcError = true) :
    (readBoundary synced s).crcError = true := by
  by_cases hq : s.seq.state = .read
  · rw [readBoundary_of_read hq]
    exact readBoundaryRead_crcError h
  · rcases readBoundary_regs synced hq with hregs | hregs <;> rw [State.crcError, hregs]
    · exact h
    · exact State.setSync_crcError h false

theorem writeBoundary_crcError {s : State} (h : s.crcError = true) : (writeBoundary s).crcError = true := by
  rcases writeBoundary_regs s with hregs | ⟨m, hregs⟩ <;> rw [State.crcError, hregs]
  · exact h
  · exact State.setFlags_crcError h m

theorem decodedBit_crcError (b : Bool) {s : State} (h : s.crcError = true) : (decodedBit b s).crcError = true := by
  unfold decodedBit
  split
  · exact readBoundary_crcError true (State.setSync_crcError h true)
  · split
    · exact readBoundary_crcError false (State.setSync_crcError h false)
    · exact State.setSync_crcError h false

theorem codecReadCell_crcError {limit : Nat} {s t : State} (h : s.crcError = true) (hc : codecReadCell limit s = some t) :
    t.crcError = true := by
  obtain ⟨b, u, hu, rfl⟩ := codecReadCell_eq_some hc
  have hregs := (pllGetNextBit_regs_seq hu).1
  exact decodedBit_crcError b (by rwa [State.crcError, hregs])

theorem codecWriteCell_crcError {limit : Nat} {s t : State} (h : s.crcError = true) (hc : codecWriteCell limit s = some t) :
    t.crcError = true := by
  obtain ⟨u, hu, rfl⟩ := codecWriteCell_eq_some hc
  have hsent : (sentCell s.codec.bitCount (nextCellBit s) s.seq.state u).crcError = true := by
    rw [State.crcError]
    exact (pllWriteNextBit_regs hu) ▸ h
  unfold sentBit
  split
  · exact writeBoundary_crcError hsent
  · exact hsent

theorem sync_crcError (now : Nat) {s : State} (h : s.crcError = true) : (sync now s).crcError = true := by
  refine sync_keeps (P := fun u => u.crcError = true) (fun u v hu _ _ _ hc => ?_) (fun u hu _ _ => hu) h
  unfold syncCell at hc
  split at hc
  · exact codecReadCell_crcError hu hc
  · exact codecWriteCell_crcError hu hc

theorem commandStart_crcError (v : Byte) (s : State) : (commandStart v s).crcError = s.crcError := by
  rw [State.crcError, commandStart_eq, flushWrite_regs, State.crcError]

/-- The idle command keeps CRCERR (43_sequencer.md R184). -/
theorem idleCommand_crcError (v : Byte) (s : State) : (idleCommand v s).crcError = s.crcError := by
  rw [← commandStart_crcError v s]
  simp [State.crcError, idleCommand, maskCRCERR, maskFREE]

/-- A format command clears CRCERR (43_sequencer.md R188). -/
theorem formatCommand_crcError (v : Byte) (s : State) : (formatCommand v s).crcError = false := by
  simp [State.crcError, formatCommand, maskBYTE, maskDREQ]

/-- A search clears CRCERR (43_sequencer.md R185 to R187). -/
theorem searchCommand_crcError (v : Byte) (s : State) : (searchCommand v s).crcError = false := by
  simp [State.crcError, searchCommand]

theorem commitOnReselect_regs (v : Byte) (s : State) : (commitOnReselect v s).regs = s.regs := by
  unfold commitOnReselect
  split
  · exact commit_regs _ s
  · rfl

/-- A command2 write stores its byte and changes no other register (45_bus_ops.md R252). -/
theorem selectDrive_regs (v : Byte) (s : State) : (selectDrive v s).regs = { s.regs with cmd2 := v } := by
  rw [← commitOnReselect_regs v s]
  unfold selectDrive
  simp only
  split <;> rfl

/-- The own part of an operation that is no reset and no command but idle leaves CRCERR set. -/
theorem ownPart_crcError {i : Instr} {s : State} (hi : i.clearsCrcError = false) (h : s.crcError = true) :
    (ownPart i s).crcError = true := by
  cases i with
  | rdData => exact State.clearFlags_crcError h (by decide)
  | wrData v => exact State.clearFlags_crcError (s := writeRegs (fun r => { r with wdata := v }) s) h (by decide)
  | wrCmd0 v =>
    have hv : selects 0x07#8 0x00#8 v = true := by simpa [Instr.clearsCrcError] using hi
    have hidle : ownPart (.wrCmd0 v) s = (idleCommand v s).answer .nothing := by simp [ownPart, startCommand, hv]
    rw [hidle]
    exact (idleCommand_crcError v s).trans h
  | cmdIdle v => exact (idleCommand_crcError v s).trans h
  | wrCmd2 v => exact (State.crcError_congr (by simp [ownPart, selectDrive_regs])).trans h
  | pllGetNextBit limit =>
    refine map_getD_keeps (P := fun u => u.crcError = true) (fun r hr => ?_) h
    exact (State.crcError_congr (by simp [(pllGetNextBit_regs_seq hr).1])).trans h
  | pllWriteNextBit bit limit =>
    refine map_getD_keeps (P := fun u => u.crcError = true) (fun u hu => ?_) h
    exact (State.crcError_congr (by simp [pllWriteNextBit_regs hu])).trans h
  | codecReadCell limit =>
    refine map_getD_keeps (P := fun u => u.crcError = true) (fun u hu => ?_) h
    have hkept := codecReadCell_crcError h hu
    exact hkept
  | codecWriteCell limit =>
    refine map_getD_keeps (P := fun u => u.crcError = true) (fun u hu => ?_) h
    have hkept := codecWriteCell_crcError h hu
    exact hkept
  | wbufCommit t => exact (State.crcError_congr (by simp [ownPart, commit_regs])).trans h
  | wbufStop t => exact (State.crcError_congr (by simp [ownPart, stopWriting_regs])).trans h
  | rdStat0 | rdStat1 | rdRsvd2 | rdRsvd4 | wrCmd1 | wrClk | wrSect | wrTrck | wrCell | crcBit | crcByte | crcOfByte
  | pllSetClock | pllReadReset | wbufStart | sync => exact h
  | cmdFormat | cmdWriteSector | cmdReadHead | cmdReadSector | reset => cases hi

/-- Every command but idle, and reset, leaves CRCERR clear. -/
theorem ownPart_crcError_cleared {i : Instr} (hi : i.clearsCrcError = true) (s : State) : (ownPart i s).crcError = false := by
  cases i with
  | wrCmd0 v =>
    have hv : selects 0x07#8 0x00#8 v = false := by simpa [Instr.clearsCrcError] using hi
    simp only [ownPart, startCommand, hv]
    split
    · contradiction
    · split
      · exact formatCommand_crcError v s
      · exact searchCommand_crcError v s
  | cmdFormat v => exact formatCommand_crcError v s
  | cmdWriteSector v | cmdReadHead v | cmdReadSector v => exact searchCommand_crcError v s
  | reset => simp [State.crcError, ownPart, clearState, Regs.reset]
  | rdStat0 | rdStat1 | rdRsvd2 | rdData | rdRsvd4 | wrCmd1 | wrCmd2 | wrData | wrClk | wrSect | wrTrck | wrCell | cmdIdle
  | crcBit | crcByte | crcOfByte | pllSetClock | pllReadReset | pllGetNextBit | pllWriteNextBit | codecReadCell | codecWriteCell
  | wbufStart | wbufCommit | wbufStop | sync => cases hi

/-- Only operations of the consumer or the reset port clear CRCERR. -/
theorem clearsCrcError_external {i : Instr} (hi : i.clearsCrcError = true) : i.external = true := by
  cases i with
  | wrCmd0 | cmdFormat | cmdWriteSector | cmdReadHead | cmdReadSector | reset => rfl
  | rdStat0 | rdStat1 | rdRsvd2 | rdData | rdRsvd4 | wrCmd1 | wrCmd2 | wrData | wrClk | wrSect | wrTrck | wrCell | cmdIdle
  | crcBit | crcByte | crcOfByte | pllSetClock | pllReadReset | pllGetNextBit | pllWriteNextBit | codecReadCell | codecWriteCell
  | wbufStart | wbufCommit | wbufStop | sync => cases hi

/-- Settles O52: `Sync` and every own part leave the bit set, but for the commands and the reset that clear it. -/
theorem crcErrorIsSticky : Obligations.CrcErrorIsSticky := by
  intro i s t h
  refine ⟨fun hi hs => ?_, fun hi => ?_⟩
  · exact exec_keeps (P := fun u => u.crcError = true) (fun _ hu => sync_crcError _ hu) (fun _ hu => ownPart_crcError hi hu) hs h
  · rw [(exec_external (clearsCrcError_external hi) h).2]
    exact ownPart_crcError_cleared hi _

/-! ### The read data register -/

/-- The byte is published: `rdata` holds the byte just decoded, with BYTE and DREQ set (43_sequencer.md R197). -/
structure Published (s : State) : Prop where
  byte : s.regs.rdata = s.codec.dataReg
  flags : s.regs.stat0 &&& 0x82#8 = 0x82#8

theorem publish_published (s : State) : Published (publish s) where
  byte := rfl
  flags := by
    have hset : maskBYTE ||| maskDREQ = 0x82#8 := rfl
    simp only [publish_eq, State.withRegs_regs, hset]
    ext k hk
    simp only [BitVec.getElem_and, BitVec.getElem_or]
    exact Bool.and_eq_right_iff_imp.2 (fun h => by simp [h])

theorem latchCrcError_rdata (s : State) : s.latchCrcError.regs.rdata = s.regs.rdata := by
  unfold State.latchCrcError
  split <;> rfl

/-- Past the last data byte READ counts and publishes nothing (43_sequencer.md R197). -/
theorem takeByte_of_past {s : State} (h : s.regs.sectorSize < s.byteNumber) : takeByte s = s.countByte :=
  if_neg (Nat.not_le.2 h)

/-- A boundary in READ publishes the counted byte, or leaves `rdata`: the boundary that completes the transfer is past the last
data byte (43_sequencer.md R197 to R199). -/
theorem readBoundaryRead_rdata (s : State) :
    (readBoundaryRead s).regs.rdata = s.regs.rdata ∨ readBoundaryRead s = publish s.countByte := by
  unfold readBoundaryRead
  split
  · exact .inl (latchCrcError_rdata s)
  · split
    · rename_i hend
      rw [takeByte_of_past (by omega)]
      exact .inl (latchCrcError_rdata s.countByte)
    · unfold takeByte
      split
      · exact .inr rfl
      · exact .inl rfl

/-- Of the read boundaries only READ's writes `rdata`, to publish a byte (10_state.md R21). -/
theorem readBoundary_rdata (synced : Bool) (s : State) :
    (readBoundary synced s).regs.rdata = s.regs.rdata ∨ s.seq.state = .read ∧ Published (readBoundary synced s) := by
  by_cases hq : s.seq.state = .read
  · rw [readBoundary_of_read hq]
    rcases readBoundaryRead_rdata s with h | h
    · exact .inl h
    · exact .inr ⟨hq, h ▸ publish_published s.countByte⟩
  · have hrdata : (readBoundary synced s).regs.rdata = s.regs.rdata := by
      rcases readBoundary_regs synced hq with hregs | hregs
      · rw [hregs]
      · rw [hregs, State.setSync_eq]
        rfl
    exact .inl hrdata

theorem decodedBit_rdata (b : Bool) (s : State) :
    (decodedBit b s).regs.rdata = s.regs.rdata ∨ s.seq.state = .read ∧ Published (decodedBit b s) := by
  unfold decodedBit
  split
  · exact readBoundary_rdata true (markCell b s)
  · split
    · exact readBoundary_rdata false (fedCell b s)
    · exact .inl rfl

theorem codecReadCell_rdata {limit : Nat} {s t : State} (h : codecReadCell limit s = some t) :
    t.regs.rdata = s.regs.rdata ∨ s.seq.state = .read ∧ Published t := by
  obtain ⟨b, u, hu, rfl⟩ := codecReadCell_eq_some h
  obtain ⟨hregs, hseq⟩ := pllGetNextBit_regs_seq hu
  rw [← hregs, ← hseq]
  exact decodedBit_rdata b u

/-- No write boundary writes `rdata`. -/
theorem writeBoundary_rdata (s : State) : (writeBoundary s).regs.rdata = s.regs.rdata := by
  rcases writeBoundary_regs s with hregs | ⟨m, hregs⟩ <;> rw [hregs]
  rfl

theorem codecWriteCell_rdata {limit : Nat} {s t : State} (h : codecWriteCell limit s = some t) :
    t.regs.rdata = s.regs.rdata := by
  obtain ⟨u, hu, rfl⟩ := codecWriteCell_eq_some h
  rw [← pllWriteNextBit_regs hu]
  unfold sentBit
  split
  · exact writeBoundary_rdata _
  · rfl

/-- An engine operation other than a read cell leaves `rdata`. -/
theorem ownPart_rdata {i : Instr} {s : State} (hx : i.external = false) (hi : ∀ limit, i ≠ .codecReadCell limit) :
    (ownPart i s).regs.rdata = s.regs.rdata := by
  cases i with
  | codecReadCell limit => exact absurd rfl (hi limit)
  | pllGetNextBit limit =>
    refine map_getD_keeps (P := fun u => u.regs.rdata = s.regs.rdata) (fun r hr => ?_) rfl
    exact congrArg Regs.rdata (pllGetNextBit_regs_seq hr).1
  | pllWriteNextBit bit limit =>
    refine map_getD_keeps (P := fun u => u.regs.rdata = s.regs.rdata) (fun u hu => ?_) rfl
    have hregs := congrArg Regs.rdata (pllWriteNextBit_regs hu)
    exact hregs
  | codecWriteCell limit =>
    refine map_getD_keeps (P := fun u => u.regs.rdata = s.regs.rdata) (fun u hu => ?_) rfl
    have hrdata := codecWriteCell_rdata hu
    exact hrdata
  | wbufCommit t => exact congrArg Regs.rdata (commit_regs t s)
  | wbufStop t => exact congrArg Regs.rdata (stopWriting_regs t s)
  | crcBit | crcByte | crcOfByte | pllSetClock | pllReadReset | wbufStart => rfl
  | rdStat0 | rdStat1 | rdRsvd2 | rdData | rdRsvd4 | wrCmd0 | wrCmd1 | wrCmd2 | wrData | wrClk | wrSect | wrTrck | wrCell
  | cmdIdle | cmdFormat | cmdWriteSector | cmdReadHead | cmdReadSector | sync | reset => cases hx

/-- Settles O53: a change of `rdata` singles out the read cell, and of the read cells the one that publishes. -/
theorem rdataChangesOnlyByPublication : Obligations.RdataChangesOnlyByPublication := by
  intro i s t hx h hne
  rw [exec_engine hx h] at hne ⊢
  by_cases hi : ∃ limit, i = .codecReadCell limit
  · obtain ⟨limit, rfl⟩ := hi
    have hcell : (ownPart (.codecReadCell limit) s).regs.rdata = s.regs.rdata ∨
        s.seq.state = .read ∧ Published (ownPart (.codecReadCell limit) s) := by
      refine map_getD_keeps (P := fun u => u.regs.rdata = s.regs.rdata ∨ s.seq.state = .read ∧ Published u) (fun u hu => ?_)
        (.inl rfl)
      exact (codecReadCell_rdata hu).imp id (fun ⟨hq, hp⟩ => ⟨hq, hp.byte, hp.flags⟩)
    obtain ⟨hq, hp⟩ := hcell.resolve_left hne
    exact ⟨⟨limit, rfl⟩, hq, hp.byte, hp.flags⟩
  · exact absurd (ownPart_rdata hx (fun limit he => hi ⟨limit, he⟩)) hne

end Sys2Proof.Machine

/-! PROOF. `Inv` is kept by every update that gives the part it changes a value in its bounds, hence by every boundary, every cell,
every `Sync` and every own part of an operation. -/

namespace Sys2Proof.Machine

/-! ### One rule per update -/

/-- `Inv` speaks of six parts of the state alone. -/
theorem Inv.congr {s t : State} (h : Inv s) (hstat : t.regs.stat0 = s.regs.stat0) (hseq : t.seq = s.seq) (hcur : t.cur = s.cur)
    (hpll : t.pll = s.pll) (hdrives : t.drives = s.drives) (hinbox : t.inbox = s.inbox) : Inv t where
  cursors := by rw [hcur]; exact h.cursors
  reserved := by rw [hstat]; exact h.reserved
  period := by rw [hpll]; exact h.period
  count := by rw [hseq]; exact h.count
  phase := by rw [hcur, hpll]; exact h.phase
  media := by rw [hdrives]; exact h.media
  waiting := by rw [hinbox]; exact h.waiting

section Updates

variable {s : State}

theorem Inv.answer (h : Inv s) (o : Output) : Inv (s.answer o) := h.congr rfl rfl rfl rfl rfl rfl
theorem Inv.raise (h : Inv s) (c : Condition) : Inv (s.raise c) := h.congr rfl rfl rfl rfl rfl rfl
theorem Inv.emit (h : Inv s) (d : Option Nat) (e : DriveEvent) : Inv (s.emit d e) := h.congr rfl rfl rfl rfl rfl rfl
theorem Inv.withCodec (h : Inv s) (c : Codec) : Inv (s.withCodec c) := h.congr rfl rfl rfl rfl rfl rfl
theorem Inv.withTx (h : Inv s) (t : Transmit) : Inv (s.withTx t) := h.congr rfl rfl rfl rfl rfl rfl
theorem Inv.withWbuf (h : Inv s) (w : WriteBuffer) : Inv (s.withWbuf w) := h.congr rfl rfl rfl rfl rfl rfl

theorem Inv.withRegs (h : Inv s) {r : Regs} (hr : r.stat0 &&& 0x70#8 = 0#8) : Inv (s.withRegs r) where
  cursors := h.cursors
  reserved := hr
  period := h.period
  count := h.count
  phase := h.phase
  media := h.media
  waiting := h.waiting

/-- A register write that leaves status0. -/
theorem Inv.withOtherRegs (h : Inv s) (r : Regs) (hr : r.stat0 = s.regs.stat0 := by rfl) : Inv (s.withRegs r) :=
  h.congr hr rfl rfl rfl rfl rfl

theorem Inv.withSeq (h : Inv s) {q : Sequencer} (hq : q.byteCount.toNat ≤ byteBound q.state) : Inv (s.withSeq q) where
  cursors := h.cursors
  reserved := h.reserved
  period := h.period
  count := hq
  phase := h.phase
  media := h.media
  waiting := h.waiting

theorem Inv.withPll (h : Inv s) {p : Pll} (hp : p.minPeriod ≤ p.period ∧ p.period ≤ p.maxPeriod)
    (ha : 0 ≤ (s.cur.windowStart : Int) + p.phaseAdjust) : Inv (s.withPll p) where
  cursors := h.cursors
  reserved := h.reserved
  period := hp
  count := h.count
  phase := ha
  media := h.media
  waiting := h.waiting

theorem Inv.withCursors (h : Inv s) {n : Nat} (hn : 0 ≤ (n : Int) + s.pll.phaseAdjust) : Inv (s.withCursors n) where
  cursors := rfl
  reserved := h.reserved
  period := h.period
  count := h.count
  phase := hn
  media := h.media
  waiting := h.waiting

theorem Inv.writeFlux (h : Inv s) (a e : Nat) (new : List Nat) : Inv (s.writeFlux a e new) where
  cursors := h.cursors
  reserved := h.reserved
  period := h.period
  count := h.count
  phase := h.phase
  media := Memory.write_wf h.media _ a e new
  waiting := h.waiting

/-- The bits of a mask without bits 6 to 4 can be set (10_state.md R40). -/
theorem Inv.setFlags (h : Inv s) {m : Byte} (hm : m &&& 0x70#8 = 0#8) : Inv (s.setFlags m) :=
  h.withRegs (by simp only [BitVec.and_or_distrib_right, h.reserved, hm]; rfl)

/-- Any bits can be cleared. -/
theorem Inv.clearFlags (h : Inv s) (m : Byte) : Inv (s.clearFlags m) :=
  h.withRegs (by
    calc s.regs.stat0 &&& ~~~m &&& 0x70#8 = s.regs.stat0 &&& 0x70#8 &&& ~~~m := by ac_rfl
      _ = 0#8 := by rw [h.reserved, BitVec.zero_and])

theorem Inv.setStat0_zero (h : Inv s) : Inv (s.setStat0 0x00#8) := h.withRegs BitVec.zero_and

theorem Inv.setSync (h : Inv s) (b : Bool) : Inv (s.setSync b) := by
  cases b with
  | true => exact h.setFlags (by decide)
  | false => exact h.clearFlags maskSYNC

theorem Inv.setFree (h : Inv s) : Inv s.setFree := h.setFlags (by decide)

theorem Inv.requestByte (h : Inv s) : Inv s.requestByte := h.setFlags (by decide)

theorem Inv.latchCrcError (h : Inv s) : Inv s.latchCrcError := by
  unfold State.latchCrcError
  split
  · exact (h.setFlags (by decide)).raise .crcError
  · exact h

/-- A state entered has counted no byte (10_state.md R31). -/
theorem Inv.enter (h : Inv s) (q : SeqState) : Inv (s.enter q) := h.withSeq (Nat.zero_le _)

theorem Inv.protocolMiss (h : Inv s) : Inv s.protocolMiss := (h.enter _).raise _

theorem Inv.seedAndEnter (h : Inv s) (q : SeqState) : Inv (seedAndEnter q s) := (h.withCodec _).enter q

/-- One more byte may be counted up to the bound of the state (10_state.md R31). -/
theorem Inv.countByte (h : Inv s) (hn : s.byteNumber ≤ byteBound s.seq.state) : Inv s.countByte := h.withSeq hn

/-- The number of the next byte is one past the count: no count is near the word's end. -/
theorem Inv.byteNumber_eq (h : Inv s) : s.byteNumber = s.seq.byteCount.toNat + 1 := by
  have hbound : byteBound s.seq.state ≤ 1027 := by cases s.seq.state <;> decide
  have hcount := h.count
  unfold State.byteNumber
  rw [BitVec.toNat_add]
  exact Nat.mod_eq_of_lt (by change _ + 1 < 65536; omega)

/-- Short of the boundary that leaves the state, the byte is counted. -/
theorem Inv.countByte_of_ne (h : Inv s) (hn : s.byteNumber ≠ byteBound s.seq.state + 1) : Inv s.countByte := by
  have hnumber := h.byteNumber_eq
  have hcount := h.count
  exact h.countByte (by omega)

theorem Inv.setClock (h : Inv s) (p : Nat) : Inv (setClock p s) :=
  h.withPll (by simp only [Pll.setClock]; omega) h.phase

theorem Inv.pllReadReset (h : Inv s) (t : Nat) : Inv (pllReadReset t s) :=
  Inv.withCursors (s := s.withPll { s.pll with phaseAdjust := 0, freqHist := 0#8 })
    (h.withPll h.period (by simp)) (by simp)

theorem Inv.startWriting (h : Inv s) (t : Nat) : Inv (startWriting t s) :=
  (h.withWbuf _).withPll h.period (by simp)

theorem Inv.latchTx (h : Inv s) : Inv (latchTx s) := (h.withTx _).requestByte

theorem Inv.commit (h : Inv s) (t : Nat) : Inv (commit t s) := by
  rcases commit_cases t s with ⟨-, hc⟩ | ⟨a, -, -, hc⟩ <;> rw [hc]
  · exact h
  · exact (h.writeFlux _ _ _).withWbuf _

theorem Inv.stopWriting (h : Inv s) (t : Nat) : Inv (stopWriting t s) := (h.commit t).withWbuf _

theorem Inv.flushWrite (h : Inv s) : Inv (flushWrite s) := by
  rcases flushWrite_cases s with ⟨-, hf⟩ | ⟨-, hf⟩ <;> rw [hf]
  · exact h
  · exact h.stopWriting _

/-! ### Boundaries -/

theorem Inv.verifyHeaderBoundary (h : Inv s) (hq : s.seq.state = .readVerifyHeader) (synced : Bool) :
    Inv (verifyHeaderBoundary synced s) := by
  unfold Machine.verifyHeaderBoundary
  split
  · exact h.protocolMiss
  · split
    · exact h.enter _
    · rename_i hn
      exact h.countByte_of_ne (by rw [hq]; exact hn)

theorem Inv.readSkipGapBoundary (h : Inv s) (hq : s.seq.state = .readSkipGap) : Inv (readSkipGapBoundary s) := by
  unfold Machine.readSkipGapBoundary
  split
  · exact h.enter _
  · rename_i hn
    exact h.countByte_of_ne (by rw [hq]; exact hn)

theorem Inv.writeSkipGapBoundary (h : Inv s) (hq : s.seq.state = .writeSkipGap) : Inv (writeSkipGapBoundary s) := by
  unfold Machine.writeSkipGapBoundary
  split
  · exact ((((h.enter _).withCodec _).setSync false).startWriting _).withTx _
  · rename_i hn
    exact h.countByte_of_ne (by rw [hq]; exact hn)

theorem Inv.waitSectorBoundary (h : Inv s) (hq : s.seq.state = .readWaitSectorSync) (synced : Bool) :
    Inv (waitSectorBoundary synced s) := by
  unfold Machine.waitSectorBoundary
  split
  · exact h.seedAndEnter _
  · split
    · exact h.protocolMiss
    · rename_i hn
      exact h.countByte_of_ne (by rw [hq]; exact hn)

theorem Inv.verifySectorBoundary (h : Inv s) (hq : s.seq.state = .readVerifySector) : Inv (verifySectorBoundary s) := by
  unfold Machine.verifySectorBoundary
  split
  · split
    · exact h.enter _
    · exact h.protocolMiss
  · rename_i hn
    exact h.countByte_of_ne (by rw [hq]; exact hn)

/-- No sector is longer than 1024 bytes (10_state.md R48). -/
theorem Regs.sectorSize_le (r : Regs) : r.sectorSize ≤ 1024 := by
  have hcode : r.sizeCode.toNat ≤ 3 := Nat.le_of_lt_succ r.sizeCode.isLt
  calc r.sectorSize = 128 * 2 ^ r.sizeCode.toNat := Nat.shiftLeft_eq _ _
    _ ≤ 128 * 2 ^ 3 := Nat.mul_le_mul_left _ (Nat.pow_le_pow_right (by decide) hcode)

/-- Counting the byte, a data byte published with it. -/
theorem Inv.takeByte (h : Inv s.countByte) : Inv (takeByte s) := by
  unfold Machine.takeByte
  split
  · exact (h.withOtherRegs _).requestByte
  · exact h

theorem Inv.readComplete (h : Inv s) : Inv (readComplete s) := h.latchCrcError.setFree.enter _

/-- The count of the last byte is not seen after the transfer is complete. -/
theorem readComplete_withSeq (s : State) (q : Sequencer) : Machine.readComplete (s.withSeq q) = Machine.readComplete s := by
  by_cases hcrc : s.codec.crc = 0#16 <;> simp [Machine.readComplete, State.latchCrcError, hcrc, State.withSeq, State.withRegs,
    State.raise]

theorem Inv.readBoundaryRead (h : Inv s) (hq : s.seq.state = .read) : Inv (readBoundaryRead s) := by
  have hsize := s.regs.sectorSize_le
  unfold Machine.readBoundaryRead
  split
  · exact (h.latchCrcError.setFree.enter _).raise _
  · split
    · rename_i hend
      rw [takeByte_of_past (by omega), State.countByte_eq, readComplete_withSeq]
      exact h.readComplete
    · exact Inv.takeByte (h.countByte (by rw [hq, byteBound]; omega))

theorem Inv.readBoundary (h : Inv s) (synced : Bool) : Inv (readBoundary synced s) := by
  unfold Machine.readBoundary
  cases hq : s.seq.state with
  | readWaitHeaderSync =>
    simp only [waitHeaderBoundary]
    split
    · exact h.seedAndEnter _
    · exact h
  | readVerifyHeader => exact h.verifyHeaderBoundary hq synced
  | readSkipGap => exact h.readSkipGapBoundary hq
  | writeSkipGap => exact h.writeSkipGapBoundary hq
  | readWaitSectorSync => exact h.waitSectorBoundary hq synced
  | readVerifySector => exact h.verifySectorBoundary hq
  | read => exact h.readBoundaryRead hq
  | idle | writeSectorSync | writeSector | writeCrc | format => exact h

theorem Inv.writeSyncBoundary (h : Inv s) (hq : s.seq.state = .writeSectorSync) : Inv (writeSyncBoundary s) := by
  unfold Machine.writeSyncBoundary
  split
  · exact ((h.withCodec _).enter _).latchTx
  · rename_i hn
    exact h.countByte_of_ne (by rw [hq]; exact hn)

theorem Inv.writeSectorBoundary (h : Inv s) (hq : s.seq.state = .writeSector) : Inv (writeSectorBoundary s) := by
  have hsize := s.regs.sectorSize_le
  unfold Machine.writeSectorBoundary
  split
  · exact (h.enter _).withTx _
  · exact (h.countByte (by rw [hq, byteBound]; omega)).latchTx

theorem Inv.writeComplete (h : Inv s) : Inv (writeComplete s) :=
  (((h.stopWriting _).setFree.pllReadReset _).enter _).withCodec _

theorem Inv.writeCrcBoundary (h : Inv s) (hq : s.seq.state = .writeCrc) : Inv (writeCrcBoundary s) := by
  unfold Machine.writeCrcBoundary
  split
  · rename_i hn
    exact (h.countByte (by rw [hq, hn]; exact le_refl 1)).withTx _
  · exact h.writeComplete

theorem Inv.writeBoundary (h : Inv s) : Inv (writeBoundary s) := by
  unfold Machine.writeBoundary
  cases hq : s.seq.state with
  | writeSectorSync => exact h.writeSyncBoundary hq
  | writeSector => exact h.writeSectorBoundary hq
  | writeCrc => exact h.writeCrcBoundary hq
  | format => exact h.latchTx
  | idle | readWaitHeaderSync | readVerifyHeader | readSkipGap | readWaitSectorSync | readVerifySector | read
  | writeSkipGap => exact h

/-! ### Cells -/

theorem clamp_bounds {v lo hi : Int} (h : lo ≤ hi) : lo ≤ clamp v lo hi ∧ clamp v lo hi ≤ hi := by
  unfold clamp
  split
  · omega
  · split <;> omega

/-- A correction leaves the period within its bounds (41_pll.md R148, R153). -/
theorem Pll.correct_period {r : Pll} (h : r.minPeriod ≤ r.period ∧ r.period ≤ r.maxPeriod) (cfg : Config) (delta : Int) :
    (r.correct cfg delta).minPeriod ≤ (r.correct cfg delta).period ∧
    (r.correct cfg delta).period ≤ (r.correct cfg delta).maxPeriod := by
  have hclamp := clamp_bounds (v := (r.period : Int) + r.nudge delta) (lo := r.minPeriod) (hi := r.maxPeriod) (by omega)
  simp only [Pll.correct]
  split
  · omega
  · exact h

theorem Inv.pllGetNextBit (h : Inv s) {limit : Nat} {b : Bool} {t : State}
    (hp : Machine.pllGetNextBit limit s = some (b, t)) : Inv t := by
  have hphase := pllGetNextBit_phase hp
  rcases (pllGetNextBit_eq_some hp).2 with ⟨-, -, rfl⟩ | ⟨edge, -, -, rfl⟩
  · exact ⟨rfl, h.reserved, h.period, h.count, hphase, h.media, h.waiting⟩
  · exact ⟨rfl, h.reserved, Pll.correct_period h.period _ _, h.count, hphase, h.media, h.waiting⟩

theorem Inv.appendCell (h : Inv s) (bit : Bool) : Inv (appendCell bit s) := by
  cases bit with
  | true => exact h.withWbuf _
  | false => exact h

theorem Inv.commitIfFull (h : Inv s) (t : Nat) : Inv (commitIfFull t s) := by
  unfold Machine.commitIfFull
  split
  · exact h.commit t
  · exact h

theorem Inv.pllWriteNextBit (h : Inv s) {bit : Bool} {limit : Nat} {t : State}
    (hp : Machine.pllWriteNextBit bit limit s = some t) : Inv t := by
  have hpll : (Machine.appendCell bit s).pll = s.pll := by cases bit <;> rfl
  have hphase := h.phase
  rw [(pllWriteNextBit_eq_some hp).2]
  exact ((h.appendCell bit).withCursors (by rw [hpll]; omega)).commitIfFull _

theorem Inv.codecReadCell (h : Inv s) {limit : Nat} {t : State} (hc : Machine.codecReadCell limit s = some t) : Inv t := by
  obtain ⟨b, u, hu, rfl⟩ := codecReadCell_eq_some hc
  have hdecided := h.pllGetNextBit hu
  unfold decodedBit
  split
  · exact ((hdecided.withCodec _).setSync true).readBoundary true
  · split
    · exact ((hdecided.withCodec _).setSync false).readBoundary false
    · exact (hdecided.withCodec _).setSync false

theorem Inv.codecWriteCell (h : Inv s) {limit : Nat} {t : State} (hc : Machine.codecWriteCell limit s = some t) : Inv t := by
  obtain ⟨u, hu, rfl⟩ := codecWriteCell_eq_some hc
  have hsent : Inv (sentCell s.codec.bitCount (nextCellBit s) s.seq.state u) := ((h.pllWriteNextBit hu).withTx _).withCodec _
  unfold sentBit
  split
  · exact hsent.writeBoundary
  · exact hsent

theorem Inv.syncCell (h : Inv s) {now : Nat} {t : State} (hc : Machine.syncCell now s = some t) : Inv t := by
  unfold Machine.syncCell at hc
  split at hc
  · exact h.codecReadCell hc
  · exact h.codecWriteCell hc

theorem Inv.sync (h : Inv s) (now : Nat) : Inv (sync now s) := by
  refine sync_keeps (P := Inv) (fun u v hu _ _ _ hc => hu.syncCell hc) (fun u hu _ hlt => ?_) h
  have hequal := hu.cursors
  have hphase := hu.phase
  exact hu.withCursors (by omega)

/-! ### Own parts, and the step -/

theorem Inv.commandStart (h : Inv s) (v : Byte) : Inv (commandStart v s) :=
  (((h.flushWrite.withOtherRegs _).pllReadReset _).withCodec _).withSeq (by exact Nat.zero_le _)

/-- A command's own state begins with no byte counted (43_sequencer.md R183). -/
theorem Inv.commandStart_inState (h : Inv s) (v : Byte) (q : SeqState) : Inv ((Machine.commandStart v s).inState q) :=
  (h.commandStart v).withSeq (Nat.zero_le _)

theorem Inv.idleCommand (h : Inv s) (v : Byte) : Inv (idleCommand v s) := by
  refine (h.commandStart_inState v .idle).withRegs ?_
  simp only [BitVec.and_or_distrib_right, BitVec.and_assoc, maskCRCERR, maskFREE]
  simp

theorem Inv.searchCommand (h : Inv s) (v : Byte) : Inv (searchCommand v s) := (h.commandStart_inState v _).setStat0_zero

theorem Inv.formatCommand (h : Inv s) (v : Byte) : Inv (formatCommand v s) :=
  ((((h.commandStart_inState v _).setStat0_zero).startWriting _).withTx _).latchTx

theorem Inv.startCommand (h : Inv s) (v : Byte) : Inv (startCommand v s) := by
  unfold Machine.startCommand
  split
  · exact h.idleCommand v
  · split
    · exact h.formatCommand v
    · exact h.searchCommand v

theorem Inv.selectDrive (h : Inv s) (v : Byte) : Inv (selectDrive v s) := by
  have hcommit : Inv (commitOnReselect v s) := by
    unfold commitOnReselect
    split
    · exact h.commit _
    · exact h
  have hlevels := (((hcommit.withOtherRegs { (commitOnReselect v s).regs with cmd2 := v }).emit (driveOf v)
    (.setSide (v.getLsbD 6))).emit (driveOf v) (.setDirection (v.getLsbD 5))).emit (driveOf v) (.setMotor (v.getLsbD 2))
  unfold Machine.selectDrive
  simp only
  split
  · exact hlevels.emit _ _
  · exact hlevels

/-- Reset needs the canonical media alone: the rest it sets (10_state.md R62). -/
theorem Inv.clearState (h : Inv s) (t : Nat) : Inv (clearState t s) where
  cursors := rfl
  reserved := by simp [Machine.clearState, Regs.reset]
  period := ⟨le_refl _, le_refl _⟩
  count := le_refl _
  phase := by simp [Machine.clearState, Pll.reset]
  media := h.media
  waiting := h.waiting

theorem Inv.ownPart (h : Inv s) (i : Instr) : Inv (ownPart i s) := by
  cases i with
  | rdStat0 | rdStat1 | crcBit | crcByte | crcOfByte | sync => exact h.answer _
  | rdRsvd2 | rdRsvd4 => exact h.congr rfl rfl rfl rfl rfl rfl
  | rdData => exact (h.clearFlags _).answer _
  | wrCmd0 v => exact (h.startCommand v).answer _
  | wrCmd1 | wrClk | wrSect | wrTrck => exact (h.withOtherRegs _).answer _
  | wrCmd2 v => exact (h.selectDrive v).answer _
  | wrData v => exact ((h.withOtherRegs _).answer _).clearFlags _
  | wrCell v => exact ((h.withOtherRegs _).setClock _).answer _
  | cmdIdle v => exact (h.idleCommand v).answer _
  | cmdFormat v => exact (h.formatCommand v).answer _
  | cmdWriteSector v | cmdReadHead v | cmdReadSector v => exact (h.searchCommand v).answer _
  | pllSetClock p => exact (h.setClock p).answer _
  | pllReadReset t => exact (h.pllReadReset t).answer _
  | pllGetNextBit limit => exact map_getD_keeps (fun _ hr => (h.pllGetNextBit hr).answer _) (h.answer _)
  | pllWriteNextBit bit limit => exact map_getD_keeps (fun _ hu => (h.pllWriteNextBit hu).answer _) (h.answer _)
  | codecReadCell limit => exact map_getD_keeps (fun _ hu => (h.codecReadCell hu).answer _) (h.answer _)
  | codecWriteCell limit => exact map_getD_keeps (fun _ hu => (h.codecWriteCell hu).answer _) (h.answer _)
  | wbufStart t => exact (h.startWriting t).answer _
  | wbufCommit t => exact (h.commit t).answer _
  | wbufStop t => exact (h.stopWriting t).answer _
  | reset => exact (h.flushWrite.clearState _).answer _

/-- Every operation keeps `Inv`. -/
theorem Inv.exec (h : Inv s) {i : Instr} {t : State} (he : exec i s = .next t) : Inv t :=
  exec_keeps (fun _ hu => hu.sync _) (fun _ hu => hu.ownPart i) h he

/-- Taking a request from the ports brings canonical media only. -/
theorem Inv.latch (h : Inv s) {r : Request} {rest : List Request} (hin : s.inbox = r :: rest) : Inv (s.latch r rest) := by
  have hwaiting := h.waiting
  simp only [hin, waitingWf, List.all_cons, Bool.and_eq_true] at hwaiting
  obtain ⟨hfirst, hrest⟩ := hwaiting
  exact ⟨h.cursors, h.reserved, h.period, h.count, h.phase, Memory.inputs_wf h.media (List.all_eq_true.1 hfirst), hrest⟩

end Updates

/-- Settles O58: a step does nothing, or takes a request and runs its operation; both keep `Inv`. -/
theorem everyStepKeepsInv : Obligations.EveryStepKeepsInv := by
  intro s t h hstep
  rcases step_eq_next hstep with ⟨-, rfl⟩ | ⟨r, rest, i, hin, -, -, he⟩
  · exact h
  · exact (h.latch hin).exec he

end Sys2Proof.Machine

/-! PROOF. Where the two cursors stand after a `Sync` and after an operation (10_state.md R35, R37, R38; 43_sequencer.md R182). -/

namespace Sys2Proof.Machine

/-! ### No cell ends after the limit -/

/-- After a decision the cursors stand at the window's end, or are held (41_pll.md R142; log 6). -/
theorem pllGetNextBit_windowStart {limit : Nat} {s t : State} {b : Bool} (h : pllGetNextBit limit s = some (b, t)) :
    t.cur.windowStart = windowEnd s ∨ t.cur.windowStart = s.cur.windowStart := by
  rcases (pllGetNextBit_eq_some h).2 with ⟨-, -, rfl⟩ | ⟨edge, -, -, rfl⟩
  · simp only [State.withCursors_cur, cellCursor]
    split
    · exact .inr rfl
    · exact .inl rfl
  · exact .inl rfl

theorem codecReadCell_cur {limit : Nat} {s t : State} (h : codecReadCell limit s = some t) :
    ∃ b u, pllGetNextBit limit s = some (b, u) ∧ t.cur = u.cur := by
  obtain ⟨b, u, hu, rfl⟩ := codecReadCell_eq_some h
  exact ⟨b, u, hu, (decodedBit_clock b u).1⟩

/-- A written cell moves both cursors forward by exactly `period` (41_pll.md R150, 42_codec.md R167). -/
theorem codecWriteCell_cursors {limit : Nat} {s t : State} (h : codecWriteCell limit s = some t) :
    t.cur.lastSync = t.cur.windowStart ∧ t.cur.windowStart = s.cur.windowStart + s.pll.period := by
  obtain ⟨u, hu, rfl⟩ := codecWriteCell_eq_some h
  have hcur := pllWriteNextBit_cursors hu
  obtain ⟨hstart, hequal⟩ := sentBit_clock s.codec.bitCount (nextCellBit s) s.seq.state u
  rw [hstart, hequal (by rw [hcur]), hcur]
  exact ⟨rfl, rfl⟩

/-- A cell of a `Sync` ends by its tick. -/
theorem syncCell_le {now : Nat} {s t : State} (hle : s.cur.windowStart ≤ now) (h : syncCell now s = some t) :
    t.cur.windowStart ≤ now := by
  unfold syncCell at h
  split at h
  · obtain ⟨b, u, hu, hcur⟩ := codecReadCell_cur h
    have hend := (pllGetNextBit_eq_some hu).1
    rw [hcur]
    rcases pllGetNextBit_windowStart hu with hc | hc <;> omega
  · obtain ⟨u, hu, -⟩ := codecWriteCell_eq_some h
    have hend := (pllWriteNextBit_eq_some hu).1
    have hcur := (codecWriteCell_cursors h).2
    omega

/-- `Sync` suspends at a cell that ends after its tick, read or written. -/
theorem syncCell_eq_none (now : Nat) (s : State) : syncCell now s = none ↔ now < cellEnd s := by
  unfold syncCell cellEnd
  split
  · exact codecReadCell_eq_none now s
  · exact codecWriteCell_eq_none now s

/-! ### What a `Sync` leaves -/

/-- Brought up to `now`: the cursors equal and not after it, at `now` in IDLE or stalled, and no whole cell left before it. -/
structure UpTo (now : Nat) (t : State) : Prop where
  cursors : t.cur.lastSync = t.cur.windowStart
  notAfter : t.cur.lastSync ≤ now
  stalled : t.seq.state = .idle ∨ t.pll.period = 0 → t.cur.lastSync = now
  decided : t.seq.state ≠ .idle → t.pll.period ≠ 0 → t.cur.lastSync = now ∨ now < cellEnd t

theorem UpTo.of_eq {now : Nat} {t : State} (hc : t.cur.lastSync = t.cur.windowStart) (h : t.cur.lastSync = now) : UpTo now t :=
  ⟨hc, le_of_eq h, fun _ => h, fun _ _ => .inl h⟩

theorem UpTo.of_suspend {now : Nat} {t : State} (hc : t.cur.lastSync = t.cur.windowStart) (hle : t.cur.lastSync ≤ now)
    (hrun : ¬ (t.seq.state = .idle ∨ t.pll.period = 0)) (h : syncCell now t = none) : UpTo now t :=
  ⟨hc, hle, fun hst => absurd hst hrun, fun _ _ => .inr ((syncCell_eq_none now t).1 h)⟩

/-- The loop leaves no whole cell, when its bound reaches from where the cells can still go back to up to `now`. -/
theorem syncLoop_upTo {now : Nat} : ∀ (fuel : Nat) (s : State), s.cur.lastSync = s.cur.windowStart → s.cur.lastSync ≤ now →
    (now : Int) - s.reach ≤ fuel → UpTo now (syncLoop fuel now s) := by
  intro fuel
  induction fuel with
  | zero =>
    intro s hc hle hfuel
    unfold State.reach at hfuel
    have hnow : s.cur.lastSync = now := by omega
    exact .of_eq hc hnow
  | succ fuel ih =>
    intro s hc hle hfuel
    unfold syncLoop
    split
    · split
      · exact .of_eq rfl rfl
      · rename_i hrun
        split
        · rename_i hnone
          exact .of_suspend hc hle hrun hnone
        · rename_i t ht
          obtain ⟨hreach, -, hct, -⟩ := syncCell_advance (not_or.1 hrun).2 ht
          have hlet := syncCell_le (hc ▸ hle) ht
          exact ih t hct (by omega) (by omega)
    · rename_i hge
      exact .of_eq hc (le_antisymm hle (Nat.le_of_not_lt hge))

theorem sync_upTo {now : Nat} {s : State} (hc : s.cur.lastSync = s.cur.windowStart) (hle : s.cur.lastSync ≤ now) :
    UpTo now (sync now s) :=
  syncLoop_upTo _ s hc hle (by unfold State.reach cellBound; omega)

/-- Settles O48, by the induction over the loop's bound, which `cellBound` makes large enough. -/
theorem syncLeavesNoWholeCell : Obligations.SyncLeavesNoWholeCell := by
  intro s now hc hle
  obtain ⟨hcursors, hnotAfter, hstalled, hdecided⟩ := sync_upTo hc hle
  exact ⟨hcursors, hnotAfter, hstalled, hdecided⟩

/-! ### How far back the cursors go -/

/-- The tick the cursors stay at or after: where they stand, or the end of a window of negative length that is next to be decided
(41_pll.md R142; log 6). -/
def State.floor (s : State) : Int := (s.cur.windowStart : Int) + min 0 ((s.pll.period : Int) + s.pll.phaseAdjust)

/-- From `s` to `t` the cursors, equal in `t`, went back no further than a window of negative length that is followed. -/
structure CursorsFrom (s t : State) : Prop where
  equal : t.cur.lastSync = t.cur.windowStart
  floor : s.floor ≤ t.cur.windowStart
  held : s.cfg.negativeWindow = .hold → s.cur.windowStart ≤ t.cur.windowStart

theorem CursorsFrom.of_le {s t : State} (hc : t.cur.lastSync = t.cur.windowStart) (h : s.cur.windowStart ≤ t.cur.windowStart) :
    CursorsFrom s t :=
  ⟨hc, by unfold State.floor; omega, fun _ => h⟩

theorem CursorsFrom.congr {s t u : State} (h : CursorsFrom s t) (hcur : u.cur = t.cur) : CursorsFrom s u :=
  ⟨by rw [hcur]; exact h.equal, by rw [hcur]; exact h.floor, by rw [hcur]; exact h.held⟩

/-- A decision of the PLL, by a zero period too (log 5): at the window's end, or held. -/
theorem pllGetNextBit_cursorsFrom {limit : Nat} {s t : State} {b : Bool} (h : pllGetNextBit limit s = some (b, t)) :
    CursorsFrom s t := by
  rcases (pllGetNextBit_eq_some h).2 with ⟨-, -, rfl⟩ | ⟨edge, he, -, rfl⟩
  · rcases cellCursor_cases s with ⟨hc, hh⟩ | ⟨hc, -, -⟩
    · refine ⟨rfl, ?_, fun hhold => ?_⟩
      · simp only [State.floor, State.withCursors_cur]
        omega
      · have hlength := hh hhold
        simp only [State.withCursors_cur]
        omega
    · exact .of_le rfl (le_of_eq hc.symm)
  · obtain ⟨hstart, hend⟩ := edgeInWindow_bounds he
    exact .of_le rfl (by simp only [State.withCursors_cur]; omega)

theorem State.reach_le (s : State) : s.reach ≤ s.cur.windowStart := by
  unfold State.reach
  omega

/-- Between two cells of a `Sync` from `s`: the cursors are at or after the floor, and so will be those of the next cell, because
nothing was decided yet, or the loop is over, or the reach itself is past the floor. -/
structure CellsFrom (s u : State) : Prop where
  equal : u.cur.lastSync = u.cur.windowStart
  floor : s.floor ≤ u.cur.windowStart
  ahead : u = s ∨ (u.seq.state = .idle ∨ u.pll.period = 0) ∨ s.floor ≤ u.reach

theorem CellsFrom.syncCell {s u t : State} {now : Nat} (h : CellsFrom s u) (hidle : u.seq.state ≠ .idle)
    (hperiod : u.pll.period ≠ 0) (ht : syncCell now u = some t) : CellsFrom s t := by
  obtain ⟨hreach, hfloor, hct, -⟩ := syncCell_advance hperiod ht
  have hahead : s.floor ≤ t.reach := by
    rcases h.ahead with rfl | hst | hu
    · exact hfloor
    · exact absurd hst (not_or.2 ⟨hidle, hperiod⟩)
    · omega
  exact ⟨hct, le_trans hahead t.reach_le, .inr (.inr hahead)⟩

theorem CellsFrom.stall {s u : State} {now : Nat} (h : CellsFrom s u) (hst : u.seq.state = .idle ∨ u.pll.period = 0)
    (hlt : u.cur.lastSync < now) : CellsFrom s (u.withCursors now) := by
  have hequal := h.equal
  have hfloor := h.floor
  exact ⟨rfl, by simp only [State.withCursors_cur]; omega, .inr (.inl hst)⟩

theorem sync_cursorsFrom (now : Nat) {s : State} (hc : s.cur.lastSync = s.cur.windowStart) : CursorsFrom s (sync now s) := by
  have hcells : CellsFrom s (sync now s) :=
    sync_keeps (P := CellsFrom s) (fun _ _ hu hidle hperiod _ ht => hu.syncCell hidle hperiod ht)
      (fun _ hu hst hlt => hu.stall hst hlt) ⟨hc, by unfold State.floor; omega, .inl rfl⟩
  exact ⟨hcells.equal, hcells.floor, fun hh => sync_cursor_le_of_hold now hh hc⟩

/-! ### The own parts -/

theorem selectDrive_cur (v : Byte) (s : State) : (selectDrive v s).cur = s.cur := by
  have hcommit : (commitOnReselect v s).cur = s.cur := by
    unfold commitOnReselect
    split
    · exact (commit_clock _ s).1
    · rfl
  rw [← hcommit]
  unfold selectDrive
  simp only
  split <;> rfl

theorem commandStart_cur (v : Byte) (s : State) :
    (commandStart v s).cur = { lastSync := s.now, windowStart := s.now } := by rw [commandStart_eq]

/-- A command moves the cursors to its tick (43_sequencer.md R183). -/
theorem startCommand_cur (v : Byte) (s : State) :
    (startCommand v s).cur = { lastSync := s.now, windowStart := s.now } := by
  unfold startCommand
  split
  · exact commandStart_cur v s
  · split <;> exact commandStart_cur v s

/-- The own part of an external operation leaves the cursors, or puts both at its tick. -/
theorem ownPart_cur {i : Instr} (hx : i.external = true) (s : State) :
    (ownPart i s).cur = s.cur ∨ (ownPart i s).cur = { lastSync := s.now, windowStart := s.now } := by
  cases i with
  | wrCmd0 v => exact .inr (startCommand_cur v s)
  | cmdIdle v | cmdFormat v | cmdWriteSector v | cmdReadHead v | cmdReadSector v => exact .inr (commandStart_cur v s)
  | reset => exact .inr rfl
  | wrCmd2 v => exact .inl (selectDrive_cur v s)
  | rdStat0 | rdStat1 | rdRsvd2 | rdData | rdRsvd4 | wrCmd1 | wrData | wrClk | wrSect | wrTrck | wrCell | sync => exact .inl rfl
  | crcBit | crcByte | crcOfByte | pllSetClock | pllReadReset | pllGetNextBit | pllWriteNextBit | codecReadCell | codecWriteCell
  | wbufStart | wbufCommit | wbufStop => cases hx

/-- So an external operation, which comes at or after `last_sync`, takes the cursors back no further than its `Sync`. -/
theorem external_cursorsFrom {i : Instr} {s t : State} (hx : i.external = true) (hc : s.cur.lastSync = s.cur.windowStart)
    (h : exec i s = .next t) : CursorsFrom s t := by
  obtain ⟨hnow, rfl⟩ := exec_external hx h
  rcases ownPart_cur hx (sync s.now s) with hcur | hcur
  · exact (sync_cursorsFrom s.now hc).congr hcur
  · rw [(sync_ports s.now s).now] at hcur
    exact .of_le (by rw [hcur]) (by rw [hcur]; simpa [← hc] using hnow)

/-- An engine operation, PLL_READ_RESET to an earlier tick aside (log 5). -/
theorem engine_cursorsFrom {i : Instr} {s : State} (hx : i.external = false) (hc : s.cur.lastSync = s.cur.windowStart)
    (hreset : ∀ a, i = .pllReadReset a → s.cur.lastSync ≤ a) : CursorsFrom s (ownPart i s) := by
  have hstay : CursorsFrom s s := .of_le hc (le_refl _)
  cases i with
  | pllReadReset a => exact .of_le rfl (hc ▸ hreset a rfl)
  | pllGetNextBit limit =>
    exact map_getD_keeps (P := CursorsFrom s) (fun _ hr => (pllGetNextBit_cursorsFrom hr).congr rfl) (hstay.congr rfl)
  | pllWriteNextBit bit limit =>
    refine map_getD_keeps (P := CursorsFrom s) (fun u hu => ?_) (hstay.congr rfl)
    exact CursorsFrom.congr (t := u) (.of_le (by rw [pllWriteNextBit_cursors hu]) (by simp [pllWriteNextBit_cursors hu])) rfl
  | codecReadCell limit =>
    refine map_getD_keeps (P := CursorsFrom s) (fun u hu => ?_) (hstay.congr rfl)
    obtain ⟨b, v, hv, hcur⟩ := codecReadCell_cur hu
    exact (pllGetNextBit_cursorsFrom hv).congr hcur
  | codecWriteCell limit =>
    refine map_getD_keeps (P := CursorsFrom s) (fun u hu => ?_) (hstay.congr rfl)
    obtain ⟨hequal, hstart⟩ := codecWriteCell_cursors hu
    exact CursorsFrom.congr (t := u) (.of_le hequal (by omega)) rfl
  | wbufCommit t => exact hstay.congr (commit_clock t s).1
  | wbufStop t => exact hstay.congr (commit_clock t s).1
  | crcBit | crcByte | crcOfByte | pllSetClock | wbufStart => exact hstay.congr rfl
  | rdStat0 | rdStat1 | rdRsvd2 | rdData | rdRsvd4 | wrCmd0 | wrCmd1 | wrCmd2 | wrData | wrClk | wrSect | wrTrck | wrCell
  | cmdIdle | cmdFormat | cmdWriteSector | cmdReadHead | cmdReadSector | sync | reset => cases hx

/-- Settles O56: where no window of negative length is next, the floor is where the cursors stand. -/
theorem cursorsNeverMoveBackUnlessANegativeWindowIsFollowed :
    Obligations.CursorsNeverMoveBackUnlessANegativeWindowIsFollowed := by
  intro i s t hc hreset h
  have hfrom : CursorsFrom s t := by
    cases hx : i.external with
    | true => exact external_cursorsFrom hx hc h
    | false =>
      rw [exec_engine hx h]
      exact engine_cursorsFrom hx hc hreset
  obtain ⟨hequal, hfloor, hheld⟩ := hfrom
  refine ⟨hequal, fun hpolicy => ?_, hfloor⟩
  have hstart : s.cur.windowStart ≤ t.cur.windowStart := by
    rcases hpolicy with hhold | hlength
    · exact hheld hhold
    · unfold State.floor at hfloor
      omega
  exact ⟨by omega, hstart⟩

end Sys2Proof.Machine

/-! PROOF. What an operation leaves at the ports (10_state.md R61, 20_memory.md R73): the parameters, the inputs, and, but for a
command2 write, the trace of drive-control events. -/

namespace Sys2Proof.Machine

/-- What no operation changes: the parameters, the time port, what waits, and the drives' inputs. -/
structure InputsKept (s t : State) : Prop where
  cfg : t.cfg = s.cfg
  now : t.now = s.now
  inbox : t.inbox = s.inbox
  drives : t.drives.map Drive.inputsOf = s.drives.map Drive.inputsOf

theorem PortsKept.inputs {s t : State} (h : PortsKept s t) : InputsKept s t := ⟨h.cfg, h.now, h.inbox, h.drives⟩

theorem InputsKept.trans {s t u : State} (h : InputsKept s t) (k : InputsKept t u) : InputsKept s u :=
  ⟨k.cfg.trans h.cfg, k.now.trans h.now, k.inbox.trans h.inbox, k.drives.trans h.drives⟩

/-- The ports of `u` but for the answer and the free-byte counter are those of a state that kept the ports of `s`. -/
def AnswersOver (s u : State) : Prop := ∃ t, PortsKept s t ∧ ∃ o n, u = { t with out := o, freeCount := n }

theorem AnswersOver.of_answer {s t : State} (h : PortsKept s t) (o : Output) : AnswersOver s (t.answer o) :=
  ⟨t, h, o, t.freeCount, rfl⟩

/-- A change of the block's own registers is one. -/
theorem AnswersOver.of_ports {s u : State} (hdrives : u.drives = s.drives) (hcfg : u.cfg = s.cfg) (hnow : u.now = s.now)
    (hinbox : u.inbox = s.inbox) (hevents : u.events = s.events) : AnswersOver s u :=
  ⟨{ u with out := s.out, freeCount := s.freeCount }, ⟨congrArg _ hdrives, hcfg, hnow, hinbox, rfl, hevents, rfl⟩, u.out,
    u.freeCount, rfl⟩

theorem AnswersOver.inputs {s u : State} (h : AnswersOver s u) : InputsKept s u := by
  obtain ⟨t, ht, o, n, rfl⟩ := h
  exact ⟨ht.cfg, ht.now, ht.inbox, ht.drives⟩

theorem AnswersOver.events {s u : State} (h : AnswersOver s u) : u.events = s.events := by
  obtain ⟨t, ht, o, n, rfl⟩ := h
  exact ht.events

/-- No command touches a port but the medium's. -/
theorem idleCommand_ports (v : Byte) (s : State) : PortsKept s (idleCommand v s) :=
  (commandStart_ports v s).trans ⟨rfl, rfl, rfl, rfl, rfl, rfl, rfl⟩

theorem formatCommand_ports (v : Byte) (s : State) : PortsKept s (formatCommand v s) :=
  (commandStart_ports v s).trans ⟨rfl, rfl, rfl, rfl, rfl, rfl, rfl⟩

theorem searchCommand_ports (v : Byte) (s : State) : PortsKept s (searchCommand v s) :=
  (commandStart_ports v s).trans ⟨rfl, rfl, rfl, rfl, rfl, rfl, rfl⟩

theorem startCommand_ports (v : Byte) (s : State) : PortsKept s (startCommand v s) := by
  unfold startCommand
  split
  · exact idleCommand_ports v s
  · split
    · exact formatCommand_ports v s
    · exact searchCommand_ports v s

theorem codecReadCell_ports {limit : Nat} {s t : State} (h : codecReadCell limit s = some t) : PortsKept s t := by
  obtain ⟨b, u, hu, rfl⟩ := codecReadCell_eq_some h
  exact (pllGetNextBit_ports hu).trans (decodedBit_ports b u)

theorem codecWriteCell_ports {limit : Nat} {s t : State} (h : codecWriteCell limit s = some t) : PortsKept s t := by
  obtain ⟨u, hu, rfl⟩ := codecWriteCell_eq_some h
  exact (pllWriteNextBit_ports hu).trans (sentBit_ports _ _ _ u)

/-- A command2 write keeps the inputs; it is the one that adds events (45_bus_ops.md R252). -/
theorem selectDrive_inputs (v : Byte) (s : State) : InputsKept s (selectDrive v s) := by
  have hcommit : PortsKept s (commitOnReselect v s) := by
    unfold commitOnReselect
    split
    · exact commit_ports _ s
    · exact .refl s
  refine hcommit.inputs.trans ?_
  unfold selectDrive
  simp only
  split <;> exact ⟨rfl, rfl, rfl, rfl⟩

/-- The own part of an operation but a command2 write gives an answer over ports it leaves. -/
theorem ownPart_answersOver {i : Instr} (hi : ∀ v, i ≠ .wrCmd2 v) (s : State) : AnswersOver s (ownPart i s) := by
  have hstay : PortsKept s s := .refl s
  cases i with
  | wrCmd2 v => exact absurd rfl (hi v)
  | rdStat0 | rdStat1 | rdRsvd2 | rdRsvd4 | rdData | wrCmd1 | wrData | wrClk | wrSect | wrTrck | wrCell | crcBit | crcByte
  | crcOfByte | pllSetClock | pllReadReset | wbufStart | sync => exact .of_ports rfl rfl rfl rfl rfl
  | wrCmd0 v => exact .of_answer (startCommand_ports v s) _
  | cmdIdle v => exact .of_answer (idleCommand_ports v s) _
  | cmdFormat v => exact .of_answer (formatCommand_ports v s) _
  | cmdWriteSector v | cmdReadHead v | cmdReadSector v => exact .of_answer (searchCommand_ports v s) _
  | wbufCommit t => exact .of_answer (commit_ports t s) _
  | wbufStop t => exact .of_answer (stopWriting_ports t s) _
  | pllGetNextBit limit => exact map_getD_keeps (fun _ hr => .of_answer (pllGetNextBit_ports hr) _) (.of_answer hstay _)
  | pllWriteNextBit bit limit => exact map_getD_keeps (fun _ hu => .of_answer (pllWriteNextBit_ports hu) _) (.of_answer hstay _)
  | codecReadCell limit => exact map_getD_keeps (fun _ hu => .of_answer (codecReadCell_ports hu) _) (.of_answer hstay _)
  | codecWriteCell limit => exact map_getD_keeps (fun _ hu => .of_answer (codecWriteCell_ports hu) _) (.of_answer hstay _)
  | reset =>
    have hclear : PortsKept s (clearState s.now (flushWrite s)) :=
      (flushWrite_ports s).trans ⟨rfl, rfl, rfl, rfl, rfl, rfl, rfl⟩
    exact .of_answer hclear _

theorem ownPart_inputs (i : Instr) (s : State) : InputsKept s (ownPart i s) := by
  by_cases hi : ∀ v, i ≠ .wrCmd2 v
  · exact (ownPart_answersOver hi s).inputs
  · obtain ⟨v, hv⟩ := not_forall.1 hi
    rw [not_not.1 hv]
    exact (selectDrive_inputs v s).trans ⟨rfl, rfl, rfl, rfl⟩

theorem exec_inputs {i : Instr} {s t : State} (h : exec i s = .next t) : InputsKept s t :=
  exec_keeps (P := InputsKept s) (fun u hu => hu.trans (sync_ports u.now u).inputs) (fun u hu => hu.trans (ownPart_inputs i u))
    (PortsKept.refl s).inputs h

/-- Only a command2 write emits a drive-control event (45_bus_ops.md R252). -/
theorem exec_events {i : Instr} {s t : State} (hi : ∀ v, i ≠ .wrCmd2 v) (h : exec i s = .next t) : t.events = s.events :=
  exec_keeps (P := fun u => u.events = s.events) (fun u hu => (sync_ports u.now u).events.trans hu)
    (fun u hu => (ownPart_answersOver hi u).events.trans hu) rfl h

/-- Drives with the same inputs, port by port. -/
theorem inputsOf_getElem {ds es : List Drive} (h : es.map Drive.inputsOf = ds.map Drive.inputsOf) {k : Nat} {d e : Drive}
    (hd : ds[k]? = some d) (he : es[k]? = some e) : e.signals = d.signals ∧ e.accepts = d.accepts := by
  have hk : (es.map Drive.inputsOf)[k]? = (ds.map Drive.inputsOf)[k]? := by rw [h]
  simpa [hd, he, Drive.inputsOf] using hk

/-- Settles O54: what `Sync` and the own part keep at the ports, read off port by port. -/
theorem parametersAndPortsNeverChange : Obligations.ParametersAndPortsNeverChange := by
  intro i s t h
  obtain ⟨hcfg, hnow, hinbox, hdrives⟩ := exec_inputs h
  exact ⟨hcfg, hnow, hinbox, by simpa using congrArg List.length hdrives, fun _ _ _ => inputsOf_getElem hdrives,
    fun hi => exec_events hi h⟩

end Sys2Proof.Machine

/-! PROOF. The status1 byte (10_state.md R54), and the reset table (10_state.md R62) with the invariants it meets. -/

namespace Sys2Proof.Machine

/-! ### status1 -/

theorem flagAt_getLsbD (b : Bool) {k j : Nat} (hk : k < 8) : (flagAt b k).getLsbD j = (b && decide (j = k)) := by
  cases b with
  | false => simp [flagAt]
  | true =>
    have hbit : (flagAt true k).getLsbD j = (decide (k < 8) && decide (k = j)) := BitVec.getLsbD_twoPow k j
    simp [hbit, hk, eq_comm]

/-- status1, bit by bit (10_state.md R54). -/
theorem status1_getLsbD (s : State) :
    (status1 s).getLsbD 7 = false ∧ (status1 s).getLsbD 6 = (sampledSignals s).index ∧
    (status1 s).getLsbD 5 = (sampledSignals s).diskChanged ∧ (status1 s).getLsbD 4 = s.regs.cmd2.getLsbD 2 ∧
    (status1 s).getLsbD 3 = (sampledSignals s).track0 ∧ (status1 s).getLsbD 2 = (sampledSignals s).writeProtected ∧
    (status1 s).getLsbD 1 = (sampledSignals s).ready ∧ (status1 s).getLsbD 0 = false := by
  simp only [status1, BitVec.getLsbD_or, flagAt_getLsbD, Nat.reduceLT]
  simp

/-- Drive 0's bit comes before drive 1's (10_state.md R59). -/
theorem curDrive_zero {r : Regs} (h0 : r.cmd2.getLsbD 0 = true) : r.curDrive = some 0 := by
  rw [Regs.curDrive, driveOf, h0, if_pos rfl]

theorem curDrive_one {r : Regs} (h0 : r.cmd2.getLsbD 0 = false) (h1 : r.cmd2.getLsbD 1 = true) : r.curDrive = some 1 := by
  rw [Regs.curDrive, driveOf, h0, h1, if_neg Bool.false_ne_true, if_pos rfl]

theorem curDrive_none {r : Regs} (h0 : r.cmd2.getLsbD 0 = false) (h1 : r.cmd2.getLsbD 1 = false) : r.curDrive = none := by
  rw [Regs.curDrive, driveOf, h0, h1, if_neg Bool.false_ne_true, if_neg Bool.false_ne_true]

/-- With no drive selected no signal is sampled. -/
theorem sampledSignals_none {s : State} (h : s.regs.curDrive = none) : sampledSignals s = noSignals := by
  simp [sampledSignals, selectedDrive, h]

/-- Else those of the drive at the selected port. -/
theorem sampledSignals_some {s : State} {k : Nat} {d : Drive} (h : s.regs.curDrive = some k) (hd : s.drives[k]? = some d) :
    sampledSignals s = d.signals := by
  simp [sampledSignals, selectedDrive, h, hd]

/-- Settles O8: the byte is `status1` after `Sync`, read bit by bit. -/
theorem readingStatus1SamplesTheSelectedDrive : Obligations.ReadingStatus1SamplesTheSelectedDrive := by
  intro s hs u
  obtain ⟨h7, h6, h5, h4, h3, h2, h1, h0⟩ := status1_getLsbD u
  have hexec : exec .rdStat1 s = .next (u.answer (.data (status1 u))) :=
    afterSync_of_le (act := fun t => t.answer (.data (status1 t))) hs
  refine ⟨status1 u, hexec, h7, h4, h0, fun hsel0 hsel1 => ?_, fun d hd => ?_⟩
  · rw [sampledSignals_none (curDrive_none hsel0 hsel1)] at h6 h5 h3 h2 h1
    exact ⟨h6, h5, h3, h2, h1⟩
  · have hsampled : sampledSignals u = d.signals := by
      rcases hd with ⟨hsel0, hport⟩ | ⟨hsel0, hsel1, hport⟩
      · exact sampledSignals_some (curDrive_zero hsel0) hport
      · exact sampledSignals_some (curDrive_one hsel0 hsel1) hport
    rw [hsampled] at h6 h5 h3 h2 h1
    exact ⟨h6, h5, h3, h2, h1⟩

/-! ### Reset -/

/-- A reset that answers clears the flushed state after `Sync`, the cursors at its tick (70_reset_and_hazards.md R320). -/
theorem exec_reset_eq {r s : State} (h : exec .reset r = .next s) :
    s = (clearState r.now (flushWrite (sync r.now r))).answer .nothing := by
  have hown := (exec_external rfl h).2
  rw [ownPart, (sync_ports r.now r).now] at hown
  exact hown

theorem reset_curDrive : Regs.reset.curDrive = none := by decide

/-- Settles O21: power-on and `clearState` both write the table. -/
theorem resetLeavesTheTableOfResetValues : Obligations.ResetLeavesTheTableOfResetValues := by
  refine ⟨fun s t hs => ?_, fun r s h => exec_events (fun _ hv => by cases hv) h⟩
  rcases hs with ⟨cfg, rfl⟩ | ⟨r, rfl, -, h⟩
  · exact ⟨rfl, rfl, rfl, rfl, rfl, rfl, rfl, reset_curDrive⟩
  · rw [exec_reset_eq h]
    exact ⟨rfl, rfl, rfl, rfl, rfl, rfl, rfl, reset_curDrive⟩

theorem powerOn_inv (cfg : Config) (t : Nat) : Inv (State.powerOn cfg t) where
  cursors := rfl
  reserved := by simp [State.powerOn, Regs.reset]
  period := ⟨le_refl _, le_refl _⟩
  count := le_refl _
  phase := by simp [State.powerOn, Pll.reset]
  media := by
    rw [Memory.wf_iff]
    intro d hd
    rw [List.eq_of_mem_replicate hd]
    rfl
  waiting := rfl

/-- With no cell length programmed the nominal period is 0 (10_state.md R53, R62). -/
theorem powerOn_nominalPeriod (cfg : Config) (t : Nat) : nominalPeriod (State.powerOn cfg t) = 0 := by
  simp [nominalPeriod, cellPeriod, State.powerOn, Regs.reset]

/-- Of R10's bounds, the room of the write-flux buffer. -/
theorem Config.wbufCap_pos {cfg : Config} (h : cfg.wf = true) : 1 ≤ cfg.wbufCap := by
  simp only [Config.wf, Bool.and_eq_true, decide_eq_true_eq] at h
  exact h.2

theorem powerOn_blockInv {cfg : Config} (h : cfg.wf = true) (t : Nat) : BlockInv (State.powerOn cfg t) where
  basic := powerOn_inv cfg t
  params := h
  onTime := le_refl _
  writing := rfl
  emptied := fun _ => rfl
  interval := fun _ hstart => by cases hstart
  rising := .nil
  room := Config.wbufCap_pos h
  bounds := by
    rw [powerOn_nominalPeriod]
    exact ⟨rfl, rfl, rfl⟩
  still := fun _ => (powerOn_nominalPeriod cfg t).symm

/-- Settles O60: `State.reset` is a power-on with R10's default parameters, which are within their bounds. -/
theorem resetMeetsTheInvariants : Obligations.ResetMeetsTheInvariants :=
  ⟨powerOn_inv Config.standard 0, powerOn_blockInv (by decide) 0, fun _ t h => powerOn_blockInv h t⟩

end Sys2Proof.Machine

/-! PROOF. The least transition at or after a tick (20_memory.md R75, R77): for each kind of medium the set of ticks that hold
a transition, and that `NextTransition` answers the least of them. -/

namespace Sys2Proof.Machine

/-! ### The least tick of a set -/

/-- `o` is the least tick of `P` at or after `t`, and `none` where there is none (20_memory.md R75). -/
structure LeastFrom (P : Nat → Prop) (t : Nat) (o : Option Nat) : Prop where
  least : ∀ x, o = some x → t ≤ x ∧ P x ∧ ∀ y, t ≤ y → y < x → ¬ P y
  never : o = none → ∀ y, t ≤ y → ¬ P y

/-- `f` answers every question with the least tick of `P`. -/
def AnswersLeast (f : Nat → Option Nat) (P : Nat → Prop) : Prop := ∀ t, LeastFrom P t (f t)

theorem LeastFrom.of_some {P : Nat → Prop} {t x : Nat} (hle : t ≤ x) (hx : P x) (hmin : ∀ y, t ≤ y → y < x → ¬ P y) :
    LeastFrom P t (some x) where
  least := by
    rintro _ ⟨⟩
    exact ⟨hle, hx, hmin⟩
  never := nofun

theorem LeastFrom.of_none {P : Nat → Prop} {t : Nat} (h : ∀ y, t ≤ y → ¬ P y) : LeastFrom P t none where
  least := nofun
  never := fun _ => h

/-- A question at a later tick has the same answer, when the set holds nothing in between. -/
theorem LeastFrom.of_later {P : Nat → Prop} {t u : Nat} {o : Option Nat} (h : LeastFrom P u o) (hle : t ≤ u)
    (hgap : ∀ y, t ≤ y → y < u → ¬ P y) : LeastFrom P t o := by
  refine ⟨fun x hx => ?_, fun ho y hy => ?_⟩
  · obtain ⟨hux, hPx, hmin⟩ := h.least x hx
    exact ⟨by omega, hPx, fun y hy hyx => (Nat.lt_or_ge y u).elim (hgap y hy) (fun huy => hmin y huy hyx)⟩
  · exact (Nat.lt_or_ge y u).elim (hgap y hy) (h.never ho y)

/-- A tick of the set, and no other, is its own answer. -/
theorem AnswersLeast.eq_self_iff {f : Nat → Option Nat} {P : Nat → Prop} (h : AnswersLeast f P) (t : Nat) :
    f t = some t ↔ P t := by
  refine ⟨fun ht => ((h t).least t ht).2.1, fun hP => ?_⟩
  cases hf : f t with
  | none => exact absurd hP ((h t).never hf t (le_refl t))
  | some x =>
    obtain ⟨hle, -, hmin⟩ := (h t).least x hf
    rcases Nat.lt_or_eq_of_le hle with hlt | rfl
    · exact absurd hP (hmin t (le_refl t) hlt)
    · rfl

/-- The earlier of the answers for two sets is the answer for their union. -/
theorem LeastFrom.earlier {P Q : Nat → Prop} {t : Nat} {a b : Option Nat} (ha : LeastFrom P t a) (hb : LeastFrom Q t b) :
    LeastFrom (fun x => P x ∨ Q x) t (earlier a b) := by
  cases a with
  | none =>
    have hnever := ha.never rfl
    refine ⟨fun x hx => ?_, fun ho y hy h => h.elim (hnever y hy) (hb.never ho y hy)⟩
    obtain ⟨hle, hQ, hmin⟩ := hb.least x hx
    exact ⟨hle, .inr hQ, fun y hy hyx h => h.elim (hnever y hy) (hmin y hy hyx)⟩
  | some x =>
    obtain ⟨htx, hP, hminP⟩ := ha.least x rfl
    cases b with
    | none =>
      have hnever := hb.never rfl
      exact .of_some htx (.inl hP) fun y hy hyx h => h.elim (hminP y hy hyx) (hnever y hy)
    | some z =>
      obtain ⟨htz, hQ, hminQ⟩ := hb.least z rfl
      refine .of_some (Nat.le_min.2 ⟨htx, htz⟩) ?_ fun y hy hyx h => ?_
      · rcases Nat.le_total x z with hxz | hzx
        · exact .inl (by rwa [Nat.min_eq_left hxz])
        · exact .inr (by rwa [Nat.min_eq_right hzx])
      · obtain ⟨hyx, hyz⟩ := Nat.lt_min.1 hyx
        exact h.elim (hminP y hy hyx) (hminQ y hy hyz)

/-! ### A linear and a rotating medium -/

/-- A rising list answers the least of its members. -/
theorem fluxNext_answersLeast {l : List Nat} (h : l.Pairwise (· < ·)) : AnswersLeast (fluxNext l) (· ∈ l) := by
  intro t
  induction l with
  | nil => exact .of_none (fun _ _ => List.not_mem_nil)
  | cons z zs ih =>
    obtain ⟨hhead, htail⟩ := List.pairwise_cons.1 h
    by_cases htz : t ≤ z
    · have hnext : fluxNext (z :: zs) t = some z := List.find?_cons_of_pos (by simpa using htz)
      rw [hnext]
      refine .of_some htz List.mem_cons_self fun y _ hyz hy => ?_
      rcases List.mem_cons.1 hy with rfl | hy
      · exact lt_irrefl _ hyz
      · exact lt_asymm hyz (hhead y hy)
    · have hnext : fluxNext (z :: zs) t = fluxNext zs t := List.find?_cons_of_neg (by simpa using htz)
      have hmem : ∀ y, t ≤ y → (y ∈ z :: zs ↔ y ∈ zs) := fun y hy => by
        rw [List.mem_cons, or_iff_right (by omega)]
      rw [hnext]
      refine ⟨fun x hx => ?_, fun ho y hy => by rw [hmem y hy]; exact (ih htail).never ho y hy⟩
      obtain ⟨hle, hx, hmin⟩ := (ih htail).least x hx
      exact ⟨hle, (hmem x hle).2 hx, fun y hy hyx => by rw [hmem y hy]; exact hmin y hy hyx⟩

/-- A tick is the start of its revolution and where it lies in it. -/
theorem revolution_mod (rev t o : Nat) : (t - t % rev + o) % rev = o % rev := by
  have hstart : t - t % rev = rev * (t / rev) := by
    have hsplit := Nat.div_add_mod t rev
    omega
  rw [hstart, Nat.mul_add_mod]

/-- So a tick after the start of `t`'s revolution, and before `n` ticks past it, is one of those `n` offsets. -/
theorem revolution_offset (rev : Nat) {t y : Nat} (h : t ≤ y) :
    ∃ o, y = t - t % rev + o ∧ t % rev ≤ o ∧ y % rev = o % rev := by
  have hle := Nat.mod_le t rev
  have hy : y = t - t % rev + (y - (t - t % rev)) := by omega
  exact ⟨y - (t - t % rev), hy, by omega, by conv_lhs => rw [hy, revolution_mod]⟩

/-- A rotating medium answers the least image of its set (20_memory.md R77): in the revolution of the question, or else the
first of the next one. -/
theorem rotatingNext_answersLeast {rev : Nat} {l : List Nat} (hrev : 1 ≤ rev) (hl : l.Pairwise (· < ·))
    (hlt : ∀ x ∈ l, x < rev) : AnswersLeast (rotatingNext rev l) (· % rev ∈ l) := by
  intro t
  have hoffset := fluxNext_answersLeast hl (t % rev)
  have hle := Nat.mod_le t rev
  unfold rotatingNext
  rw [if_neg (by omega)]
  cases hnext : fluxNext l (t % rev) with
  | some x =>
    obtain ⟨hx, hmem, hmin⟩ := hoffset.least x hnext
    have hxrev := hlt x hmem
    refine .of_some (by omega) (by rwa [revolution_mod, Nat.mod_eq_of_lt hxrev]) fun y hy hyx => ?_
    obtain ⟨o, rfl, ho, hmod⟩ := revolution_offset rev hy
    rw [hmod, Nat.mod_eq_of_lt (by omega)]
    exact hmin o ho (by omega)
  | none =>
    have hnone := hoffset.never hnext
    cases l with
    | nil => exact .of_none (fun _ _ => List.not_mem_nil)
    | cons z zs =>
      have hzrev := hlt z List.mem_cons_self
      have hz : t % rev < rev := Nat.mod_lt t hrev
      have hstart : (t - t % rev + rev + z) % rev = z := by
        rw [Nat.add_assoc, revolution_mod, Nat.add_mod_left, Nat.mod_eq_of_lt hzrev]
      refine .of_some (by omega) (by rw [hstart]; exact List.mem_cons_self) fun y hy hyx => ?_
      obtain ⟨o, rfl, ho, hmod⟩ := revolution_offset rev hy
      rw [hmod]
      rcases Nat.lt_or_ge o rev with horev | horev
      · rw [Nat.mod_eq_of_lt horev]
        exact hnone o ho
      · rw [Nat.mod_eq_sub_mod horev, Nat.mod_eq_of_lt (by omega)]
        intro hmem
        rcases List.mem_cons.1 hmem with heq | hmem
        · omega
        · have := (List.pairwise_cons.1 hl).1 _ hmem
          omega

/-! ### An unknown medium -/

/-- No further transition. -/
theorem externalSearch_of_no_gap {id k : Nat} (h : Config.externalGap id k = none) (fuel base t : Nat) :
    externalSearch (fuel + 1) id k base t = none := by
  simp [externalSearch, h]

/-- The next transition answers the question, or the search goes on past it. -/
theorem externalSearch_of_gap {id k gap : Nat} (h : Config.externalGap id k = some gap) (fuel base t : Nat) :
    externalSearch (fuel + 1) id k base t =
      if t ≤ base + gap then some (base + gap) else externalSearch fuel id (k + 1) (base + gap + 1) t := by
  simp [externalSearch, h]

/-- The tick found is found from every tick up to it. -/
theorem externalSearch_of_le {fuel id k base t x y : Nat} (h : externalSearch fuel id k base t = some x) (hty : t ≤ y)
    (hyx : y ≤ x) : externalSearch fuel id k base y = some x := by
  induction fuel generalizing k base with
  | zero => cases h
  | succ fuel ih =>
    cases hgap : Config.externalGap id k with
    | none =>
      rw [externalSearch_of_no_gap hgap] at h
      cases h
    | some gap =>
      rw [externalSearch_of_gap hgap] at h ⊢
      split at h
      · rw [← Option.some.inj h] at hyx ⊢
        rw [if_pos hyx]
      · rw [if_neg (by omega)]
        exact ih h

/-- A bound that reaches past `t` is not what ends the search: each transition stands at a later tick than the one before. -/
theorem externalSearch_bound {m n id k base t : Nat} (hbase : base ≤ t) (hm : t < base + m) (hn : t < base + n) :
    externalSearch m id k base t = externalSearch n id k base t := by
  induction m generalizing n k base with
  | zero => omega
  | succ m ih =>
    obtain ⟨n, rfl⟩ : ∃ j, n = j + 1 := ⟨n - 1, by omega⟩
    cases hgap : Config.externalGap id k with
    | none => rw [externalSearch_of_no_gap hgap, externalSearch_of_no_gap hgap]
    | some gap =>
      rw [externalSearch_of_gap hgap, externalSearch_of_gap hgap]
      split
      · rfl
      · exact ih (by omega) (by omega) (by omega)

/-- Where nothing is found, nothing is found from any later tick. -/
theorem externalSearch_eq_none_of_le {m n id k base t y : Nat} (h : externalSearch m id k base t = none)
    (hbase : base ≤ t) (hm : t < base + m) (hty : t ≤ y) : externalSearch n id k base y = none := by
  induction m generalizing n k base with
  | zero => omega
  | succ m ih =>
    cases n with
    | zero => rfl
    | succ n =>
      cases hgap : Config.externalGap id k with
      | none => exact externalSearch_of_no_gap hgap n base y
      | some gap =>
        rw [externalSearch_of_gap hgap] at h ⊢
        split at h
        · cases h
        · rw [if_neg (by omega)]
          exact ih h (by omega) (by omega)

/-- What an unknown medium held before any write: the ticks at which its sequence has a transition (log 9). -/
def externalHolds (id t : Nat) : Prop := externalNext id t = some t

/-- The tick answered is the answer to every question up to it. -/
theorem externalNext_of_le {id t x y : Nat} (h : externalNext id t = some x) (hty : t ≤ y) (hyx : y ≤ x) :
    externalNext id y = some x := by
  unfold externalNext at *
  rw [externalSearch_bound (m := t + 1) (n := y + 1 + t) (Nat.zero_le t) (by omega) (by omega)] at h
  rw [externalSearch_bound (m := y + 1) (n := y + 1 + t) (Nat.zero_le y) (by omega) (by omega)]
  exact externalSearch_of_le h hty hyx

theorem externalNext_answersLeast (id : Nat) : AnswersLeast (externalNext id) (externalHolds id) := by
  intro t
  refine ⟨fun x hx => ?_, fun ho y hty hy => ?_⟩
  · have hle : t ≤ x := externalSearch_le hx
    refine ⟨hle, externalNext_of_le hx hle (le_refl x), fun y hty hyx hy => ?_⟩
    have hxy : some x = some y := (externalNext_of_le hx hty (Nat.le_of_lt hyx)).symm.trans hy
    exact absurd (Option.some.inj hxy) (by omega)
  · have hnone : externalNext id y = none := externalSearch_eq_none_of_le ho (Nat.zero_le t) (by omega) hty
    rw [externalHolds, hnone] at hy
    cases hy

/-! ### The writes over it -/

/-- The answer once the ticks in `[a, e)` are removed from what `f` answers for. -/
def nextOutside (f : Nat → Option Nat) (a e t : Nat) : Option Nat :=
  (f t).bind fun x => if outside a e x then some x else f e

theorem outside_iff {a e t : Nat} : outside a e t = true ↔ t < a ∨ e ≤ t := by
  simp [outside]

theorem nextOutside_answersLeast {f : Nat → Option Nat} {P : Nat → Prop} (h : AnswersLeast f P) (a e : Nat) :
    AnswersLeast (nextOutside f a e) (fun t => outside a e t = true ∧ P t) := by
  intro t
  unfold nextOutside
  cases hf : f t with
  | none => exact .of_none fun y hy hPy => (h t).never hf y hy hPy.2
  | some x =>
    obtain ⟨htx, hPx, hmin⟩ := (h t).least x hf
    rw [Option.bind_some]
    split
    · rename_i hout
      exact .of_some htx ⟨hout, hPx⟩ fun y hy hyx hPy => hmin y hy hyx hPy.2
    · rename_i hin
      rw [outside_iff, not_or] at hin
      refine LeastFrom.of_later (u := e) ⟨fun z hz => ?_, fun ho y hy hPy => (h e).never ho y hy hPy.2⟩ (by omega) ?_
      · obtain ⟨hez, hPz, hminz⟩ := (h e).least z hz
        exact ⟨hez, ⟨outside_iff.2 (.inr hez), hPz⟩, fun y hy hyz hPy => hminz y hy hyz hPy.2⟩
      · rintro y hty hye ⟨hout, hPy⟩
        rw [outside_iff] at hout
        exact hmin y hty (by omega) hPy

theorem overlayNext_cons (base : Nat → Option Nat) (w : FluxWrite) (ws : List FluxWrite) (t : Nat) :
    overlayNext base (w :: ws) t = earlier (nextOutside (overlayNext base ws) w.first w.stop t) (fluxNext w.flux t) := by
  rw [overlayNext, nextOutside]
  cases overlayNext base ws t <;> rfl

/-- The ticks that hold a transition after the writes of a list, newest first, over a set (20_memory.md R76). -/
def overlayHolds (base : Nat → Prop) : List FluxWrite → Nat → Prop
  | [], t => base t
  | w :: ws, t => (outside w.first w.stop t = true ∧ overlayHolds base ws t) ∨ t ∈ w.flux

theorem overlayNext_answersLeast {base : Nat → Option Nat} {P : Nat → Prop} (h : AnswersLeast base P) {ws : List FluxWrite}
    (hws : ∀ w ∈ ws, w.flux.Pairwise (· < ·)) : AnswersLeast (overlayNext base ws) (overlayHolds P ws) := by
  induction ws with
  | nil => exact h
  | cons w ws ih =>
    obtain ⟨hw, hws⟩ := List.forall_mem_cons.1 hws
    intro t
    rw [overlayNext_cons]
    exact (nextOutside_answersLeast (ih hws) w.first w.stop t).earlier (fluxNext_answersLeast hw t)

/-! ### Every medium -/

/-- The ticks at which a medium holds a transition: the members of a linear set, the images of a rotating one, and for an
unknown medium what its writes left (20_memory.md R75 to R77; log 9). -/
def Medium.Holds (m : Medium) (t : Nat) : Prop :=
  match m with
  | .linear l => t ∈ l
  | .rotating rev l => t % rev ∈ l
  | .external id ws => overlayHolds (externalHolds id) ws t

theorem Medium.wf_linear {l : List Nat} : (Medium.linear l).wf = true ↔ l.Pairwise (· < ·) := decide_eq_true_iff

theorem Medium.wf_rotating {rev : Nat} {l : List Nat} :
    (Medium.rotating rev l).wf = true ↔ (1 ≤ rev ∧ l.Pairwise (· < ·)) ∧ ∀ x ∈ l, x < rev := by
  simp only [Medium.wf, Bool.and_eq_true, decide_eq_true_eq, List.all_eq_true]

theorem Medium.wf_external {id : Nat} {ws : List FluxWrite} :
    (Medium.external id ws).wf = true ↔ ∀ w ∈ ws, w.flux.Pairwise (· < ·) := by
  simp only [Medium.wf, List.all_eq_true, decide_eq_true_eq]

theorem Medium.next_answersLeast {m : Medium} (h : m.wf = true) : AnswersLeast m.next m.Holds := by
  cases m with
  | linear l => exact fluxNext_answersLeast (Medium.wf_linear.1 h)
  | rotating rev l =>
    obtain ⟨⟨hrev, hl⟩, hlt⟩ := Medium.wf_rotating.1 h
    exact rotatingNext_answersLeast hrev hl hlt
  | external id ws => exact overlayNext_answersLeast (externalNext_answersLeast id) (Medium.wf_external.1 h)

theorem Medium.hasFlux_iff {m : Medium} (h : m.wf = true) (t : Nat) : m.hasFlux t = true ↔ m.Holds t := by
  rw [Medium.hasFlux, beq_iff_eq]
  exact (Medium.next_answersLeast h).eq_self_iff t

theorem Medium.hasFlux_eq_false_iff {m : Medium} (h : m.wf = true) (t : Nat) : m.hasFlux t = false ↔ ¬ m.Holds t := by
  rw [← Medium.hasFlux_iff h, Bool.not_eq_true]

/-- The images of a set within a revolution (20_memory.md R77). -/
theorem image_iff {rev : Nat} {l : List Nat} (hlt : ∀ x ∈ l, x < rev) (t : Nat) :
    t % rev ∈ l ↔ ∃ x ∈ l, ∃ k, t = x + k * rev := by
  refine ⟨fun h => ⟨t % rev, h, t / rev, (Nat.mod_add_div' t rev).symm⟩, ?_⟩
  rintro ⟨x, hx, k, rfl⟩
  rwa [Nat.add_mul_mod_self_right, Nat.mod_eq_of_lt (hlt x hx)]

/-! ### The read port -/

theorem nextTransition_none {s : State} (h : s.regs.curDrive = none) (t : Nat) : nextTransition s t = none := by
  simp [nextTransition, selectedDrive, h]

theorem nextTransition_some {s : State} {k : Nat} {d : Drive} (h : s.regs.curDrive = some k) (hd : s.drives[k]? = some d)
    (t : Nat) : nextTransition s t = d.medium.next t := by
  simp [nextTransition, selectedDrive, h, hd]

/-- Settles O24: each kind of medium answers the least tick of the set it holds. -/
theorem everyMediumAnswersItsLeastTransition : Obligations.EveryMediumAnswersItsLeastTransition := by
  refine ⟨fun l t h => Medium.hasFlux_iff h t, fun rev l t h => ?_, fun m t h => ?_, fun s t => ⟨fun h0 h1 => ?_, ?_⟩⟩
  · exact (Medium.hasFlux_iff h t).trans (image_iff (Medium.wf_rotating.1 h).2 t)
  · obtain ⟨hleast, hnever⟩ := Medium.next_answersLeast h t
    refine ⟨fun x hx => ?_, fun ho y hy => (Medium.hasFlux_eq_false_iff h y).2 (hnever ho y hy)⟩
    obtain ⟨hle, hholds, hmin⟩ := hleast x hx
    exact ⟨hle, (Medium.hasFlux_iff h x).2 hholds,
      fun y hy hyx => (Medium.hasFlux_eq_false_iff h y).2 (hmin y hy hyx)⟩
  · exact nextTransition_none (curDrive_none h0 h1) t
  · rintro d (⟨h0, hd⟩ | ⟨h0, h1, hd⟩)
    · exact nextTransition_some (curDrive_zero h0) hd t
    · exact nextTransition_some (curDrive_one h0 h1) hd t

end Sys2Proof.Machine

/-! PROOF. What a `WriteFlux` does to the ticks that hold a transition (20_memory.md R76, R77), and that it reaches one drive
only. -/

namespace Sys2Proof.Machine

/-! ### The interval and its images -/

/-- On a medium that does not repeat, the new transitions and what stood outside the interval (20_memory.md R76). -/
theorem Medium.write_holds {m : Medium} (hm : ∀ rev l, m ≠ .rotating rev l) (a e : Nat) (new : List Nat) (t : Nat) :
    (m.write a e new).Holds t ↔ (outside a e t = true ∧ m.Holds t) ∨ t ∈ new := by
  cases m with
  | linear l => simp only [Medium.write, Medium.Holds, mem_mergeTicks, List.mem_filter, and_comm]
  | rotating rev l => exact absurd rfl (hm rev l)
  | external id ws => simp only [Medium.write, Medium.Holds, overlayHolds, mem_mergeTicks, List.not_mem_nil, false_or]

/-- A write of a valid call replaces exactly its interval. -/
theorem Medium.write_hasFlux {m : Medium} (h : m.wf = true) (hm : ∀ rev l, m ≠ .rotating rev l) {a e : Nat} {new : List Nat}
    (hnew : ∀ x ∈ new, a ≤ x ∧ x < e) (t : Nat) :
    (m.write a e new).hasFlux t = if a ≤ t ∧ t < e then decide (t ∈ new) else m.hasFlux t := by
  rw [Bool.eq_iff_iff, Medium.hasFlux_iff (Medium.write_wf h a e new), Medium.write_holds hm, outside_iff]
  split
  · rename_i hin
    rw [decide_eq_true_iff, or_iff_right (fun hout => by omega)]
  · rename_i hout
    rw [Medium.hasFlux_iff h, or_iff_left (fun ht => hout (hnew t ht)), and_iff_right (by omega)]

/-- The first image of `x` at or after `a` lies in the first revolution from `a`. -/
theorem firstImage_spec {rev x : Nat} (hx : x < rev) (a : Nat) :
    a ≤ firstImage rev a x ∧ firstImage rev a x < a + rev ∧ ∃ j, firstImage rev a x = x + j * rev := by
  have hrev : 0 < rev := by omega
  have hoff : (x + (rev - a % rev)) % rev < rev := Nat.mod_lt _ hrev
  have ha : a % rev < rev := Nat.mod_lt a hrev
  have hmod : firstImage rev a x % rev = x := by
    calc firstImage rev a x % rev = (a % rev + (x + (rev - a % rev))) % rev := by
          rw [firstImage, Nat.add_mod_mod, Nat.mod_add_mod]
      _ = (x + rev) % rev := by congr 1; omega
      _ = x := by rw [Nat.add_mod_right, Nat.mod_eq_of_lt hx]
  have hsplit := Nat.mod_add_div' (firstImage rev a x) rev
  rw [hmod] at hsplit
  exact ⟨Nat.le_add_right _ _, Nat.add_lt_add_left hoff a, firstImage rev a x / rev, hsplit.symm⟩

/-- Every image at or after `a` is at or after the first. -/
theorem firstImage_le {rev x a k : Nat} (hx : x < rev) (h : a ≤ x + k * rev) : firstImage rev a x ≤ x + k * rev := by
  obtain ⟨-, hlt, j, hj⟩ := firstImage_spec hx a
  have hjk : j < k + 1 := Nat.lt_of_mul_lt_mul_right (a := rev) (by rw [Nat.succ_mul]; omega)
  rw [hj]
  exact Nat.add_le_add_left (Nat.mul_le_mul_right rev (Nat.le_of_lt_succ hjk)) x

/-- The first image at or after `a` lies past the interval exactly when no image lies in it. -/
theorem le_firstImage_iff {rev x : Nat} (hx : x < rev) (a e : Nat) :
    e ≤ firstImage rev a x ↔ ¬ ∃ k, a ≤ x + k * rev ∧ x + k * rev < e := by
  obtain ⟨ha, -, j, hj⟩ := firstImage_spec hx a
  constructor
  · rintro he ⟨k, hak, hke⟩
    have := firstImage_le hx hak
    omega
  · intro h
    by_contra hlt
    exact h ⟨j, by omega, by omega⟩

/-- On a rotating medium: the images of the new transitions, with what stood clear of the interval's images; of an interval of a
revolution or more, the images of its last revolution's alone (20_memory.md R77). -/
theorem mem_rotatingWrite {rev : Nat} {l : List Nat} (hlt : ∀ x ∈ l, x < rev) (a e : Nat) (new : List Nat) (r : Nat) :
    r ∈ rotatingWrite rev l a e new ↔
      if e - a < rev then (∃ x ∈ new, x % rev = r) ∨ (r ∈ l ∧ ¬ ∃ k, a ≤ r + k * rev ∧ r + k * rev < e)
      else ∃ x ∈ new, e ≤ x + rev ∧ x % rev = r := by
  unfold rotatingWrite
  split
  · rw [mem_mergeTicks, List.mem_filter, List.mem_map, decide_eq_true_iff, or_comm]
    exact or_congr_right (and_congr_right fun hr => le_firstImage_iff (hlt r hr) a e)
  · simp only [mem_mergeTicks, List.not_mem_nil, false_or, List.mem_map, List.mem_filter, decide_eq_true_iff, and_assoc]

/-- Settles O26: the ticks of a rotating medium are the images of its set. -/
theorem rotatingWriteReplacesTheImages : Obligations.RotatingWriteReplacesTheImages := by
  intro rev l a e new t h _ _ _
  rw [Medium.hasFlux_iff (Medium.write_wf h a e new), Medium.hasFlux_iff h]
  exact mem_rotatingWrite (Medium.wf_rotating.1 h).2 a e new (t % rev)

/-! ### The drives -/

theorem Memory.write_getElem?_of_ne {k j : Nat} (h : j ≠ k) (m : Memory) (a e : Nat) (new : List Nat) :
    (Memory.write m (some k) a e new)[j]? = m[j]? :=
  List.getElem?_modify_ne _ m (Ne.symm h)

theorem Memory.write_getElem?_self {m : Memory} {k : Nat} {d : Drive} (h : m[k]? = some d) (a e : Nat) (new : List Nat) :
    (Memory.write m (some k) a e new)[k]? = some (d.write a e new) := by
  rw [Memory.write, List.getElem?_modify_eq, h]
  rfl

/-- Settles O25: one drive is reached, and of its medium one interval. -/
theorem writeFluxReplacesTheInterval : Obligations.WriteFluxReplacesTheInterval := by
  refine ⟨fun m a e new => ⟨rfl, fun k => ⟨fun j hj => ?_, fun d hd => ?_⟩⟩, fun m a e new t h hm _ _ hnew => ?_⟩
  · exact Memory.write_getElem?_of_ne hj m a e new
  · exact Memory.write_getElem?_self hd a e new
  · exact Medium.write_hasFlux h hm hnew t

end Sys2Proof.Machine

/-! PROOF. The step (20_memory.md R72, R73, R84): what is refused, and what is run. -/

namespace Sys2Proof.Machine

/-! ### Bytes that are no bus operation -/

theorem decodeBus_of_ge {op : Byte} (h : 16 ≤ op.toNat) (lines : List Byte) :
    decodeBus (op :: lines) = .error .offsetOutOfRange :=
  if_neg (Nat.not_lt.2 h)

theorem decodeBus_of_lt {op : Byte} (h : op.toNat < 16) (lines : List Byte) :
    decodeBus (op :: lines) = decodeBusOp (op.extractLsb' 0 4) lines :=
  if_pos h

theorem decodeRead_tooWide (i : Instr) {lines : List Byte} (h : 2 ≤ lines.length) : decodeRead i lines = .error .tooWide :=
  if_neg (by omega)

theorem decodeWrite_tooWide (f : Byte → Instr) {lines : List Byte} (h : 2 ≤ lines.length) :
    decodeWrite f lines = .error .tooWide := by
  match lines, h with
  | _ :: _ :: _, _ => rfl

/-- No bus operation takes two data bytes (20_memory.md R72). -/
theorem decodeBusOp_tooWide (op : BitVec 4) {lines : List Byte} (h : 2 ≤ lines.length) :
    decodeBusOp op lines = .error .tooWide := by
  unfold decodeBusOp
  split <;> simp only [decodeRead_tooWide _ h, decodeWrite_tooWide _ h]

/-! ### The operation presented first -/

section Presented

variable {s : State} {r : Request} {rest : List Request}

theorem step_of_empty (h : s.inbox = []) : step s = .next s := by
  simp [step, h]

/-- Bytes that are no operation are refused with the decoder's reason. -/
theorem step_of_undecodable {e : DecodeError} (h : s.inbox = r :: rest) (hd : decode r.fmt r.bytes = .error e) :
    step s = .refused (.undecodable e) := by
  simp [step, h, State.take, Request.decoded, hd]

/-- A tick before that of the operation before is refused (70_reset_and_hazards.md R331). -/
theorem step_of_earlier {i : Instr} (h : s.inbox = r :: rest) (hd : decode r.fmt r.bytes = .ok i) (hlt : r.now < s.now) :
    step s = .refused .timeBackward := by
  simp [step, h, State.take, Request.decoded, hd, hlt]

/-- Else the operation is run, with its tick and its drive inputs at the ports (20_memory.md R73, R84). -/
theorem step_of_decoded {i : Instr} (h : s.inbox = r :: rest) (hd : decode r.fmt r.bytes = .ok i) (hle : s.now ≤ r.now) :
    step s = exec i (s.latch r rest) := by
  simp [step, h, State.take, Request.decoded, hd, Nat.not_lt.2 hle]

end Presented

/-- Settles O5: neither decodes. -/
theorem accessesOutsideTheWindowAreRefused : Obligations.AccessesOutsideTheWindowAreRefused := by
  intro s r rest op lines hin hfmt hbytes
  have hdecode : decode r.fmt r.bytes = decodeBus (op :: lines) := by rw [hfmt, hbytes]; rfl
  refine ⟨fun hop => step_of_undecodable hin ?_, fun hop hlines => step_of_undecodable hin ?_⟩
  · rw [hdecode, decodeBus_of_ge hop]
  · rw [hdecode, decodeBus_of_lt hop, decodeBusOp_tooWide _ hlines]

theorem decodeTableWord_eq_some {nbits w : Nat} {i : Instr} (h : decodeTableWord nbits w = some i) :
    decode (tableWord nbits w).1 (tableWord nbits w).2 = .ok i := by
  unfold decodeTableWord at h
  cases hd : decode (tableWord nbits w).1 (tableWord nbits w).2 with
  | error e =>
    rw [hd] at h
    cases h
  | ok j =>
    rw [hd] at h
    exact congrArg _ (Option.some.inj h)

/-- A table word presented runs in the next step, at the earliest tick the block accepts (log 2). -/
theorem step_withFetchWord {nbits w : Nat} {i : Instr} (h : decodeTableWord nbits w = some i) (s : State) :
    step (s.withFetchWord nbits w) = exec i { s with now := max s.now s.cur.lastSync } :=
  step_of_decoded (s := s.withFetchWord nbits w) (r := wordRequest nbits w s) (rest := s.inbox) rfl
    (decodeTableWord_eq_some h) (Nat.le_max_left _ _)

/-- Settles O6: one rule of the step for each clause. -/
theorem stepRunsTheDecodedOperation : Obligations.StepRunsTheDecodedOperation := by
  intro s
  refine ⟨step_of_empty, fun r rest hin => ⟨fun i hi => ⟨fun hle => ?_, fun hlt => ?_⟩, fun e he => ?_⟩,
    fun nbits w i hi => ?_⟩
  · exact step_of_decoded hin hi hle
  · exact step_of_earlier hin hi hlt
  · exact step_of_undecodable hin he
  · exact step_withFetchWord hi s

end Sys2Proof.Machine

/-! PROOF. Reading leaves the media alone (20_memory.md R75, R86), and with no drive selected there is none to read or write
(R89). -/

namespace Sys2Proof.Machine

/-! ### Reading -/

/-- No medium changed and no call was made to one. -/
structure MediaKept (s t : State) : Prop where
  drives : t.drives = s.drives
  fluxCalls : t.fluxCalls = s.fluxCalls

theorem MediaKept.refl (s : State) : MediaKept s s := ⟨rfl, rfl⟩

theorem MediaKept.trans {s t u : State} (h : MediaKept s t) (k : MediaKept t u) : MediaKept s u :=
  ⟨k.drives.trans h.drives, k.fluxCalls.trans h.fluxCalls⟩

theorem latchCrcError_media (s : State) : MediaKept s s.latchCrcError := by
  unfold State.latchCrcError
  split <;> exact ⟨rfl, rfl⟩

theorem takeByte_media (s : State) : MediaKept s (takeByte s) := by
  unfold takeByte
  split <;> exact ⟨rfl, rfl⟩

theorem readBoundaryRead_media (s : State) : MediaKept s (readBoundaryRead s) := by
  unfold readBoundaryRead
  split
  · exact (latchCrcError_media s).trans ⟨rfl, rfl⟩
  · split
    · exact ((takeByte_media s).trans (latchCrcError_media _)).trans ⟨rfl, rfl⟩
    · exact takeByte_media s

/-- No read boundary makes a call: a write that starts has buffered nothing yet (43_sequencer.md R194). -/
theorem readBoundary_media (synced : Bool) (s : State) : MediaKept s (readBoundary synced s) := by
  unfold readBoundary
  cases s.seq.state with
  | read => exact readBoundaryRead_media s
  | readWaitHeaderSync =>
    simp only [waitHeaderBoundary]
    split <;> exact ⟨rfl, rfl⟩
  | readVerifyHeader =>
    simp only [verifyHeaderBoundary]
    repeat' split
    all_goals exact ⟨rfl, rfl⟩
  | readSkipGap =>
    simp only [readSkipGapBoundary]
    split <;> exact ⟨rfl, rfl⟩
  | writeSkipGap =>
    simp only [writeSkipGapBoundary]
    split <;> exact ⟨rfl, rfl⟩
  | readWaitSectorSync =>
    simp only [waitSectorBoundary]
    repeat' split
    all_goals exact ⟨rfl, rfl⟩
  | readVerifySector =>
    simp only [verifySectorBoundary]
    repeat' split
    all_goals exact ⟨rfl, rfl⟩
  | idle | writeSectorSync | writeSector | writeCrc | format => exact .refl s

theorem decodedBit_media (b : Bool) (s : State) : MediaKept s (decodedBit b s) := by
  have hfed : MediaKept s (fedCell b s) := ⟨rfl, rfl⟩
  have hmark : MediaKept s (markCell b s) := ⟨rfl, rfl⟩
  unfold decodedBit
  split
  · exact hmark.trans (readBoundary_media true _)
  · split
    · exact hfed.trans (readBoundary_media false _)
    · exact hfed

theorem pllGetNextBit_media {limit : Nat} {s t : State} {b : Bool} (h : pllGetNextBit limit s = some (b, t)) :
    MediaKept s t := by
  rcases (pllGetNextBit_eq_some h).2 with ⟨-, -, rfl⟩ | ⟨edge, -, -, rfl⟩ <;> exact ⟨rfl, rfl⟩

theorem codecReadCell_media {limit : Nat} {s t : State} (h : codecReadCell limit s = some t) : MediaKept s t := by
  obtain ⟨b, u, hu, rfl⟩ := codecReadCell_eq_some h
  exact (pllGetNextBit_media hu).trans (decodedBit_media b u)

/-- Settles O55: a read cell is a decision of the PLL and a read boundary, and neither makes a call. -/
theorem readCellsLeaveTheMediaAlone : Obligations.ReadCellsLeaveTheMediaAlone := by
  intro s t limit h
  have hkept : MediaKept s t := by
    rcases h with h | h <;> rw [exec_engine rfl h]
    · exact map_getD_keeps (P := MediaKept s) (fun _ hu => (codecReadCell_media hu).trans ⟨rfl, rfl⟩) ⟨rfl, rfl⟩
    · exact map_getD_keeps (P := MediaKept s) (fun _ hu => (pllGetNextBit_media hu).trans ⟨rfl, rfl⟩) ⟨rfl, rfl⟩
  exact ⟨hkept.drives, hkept.fluxCalls⟩

/-! ### No drive selected -/

theorem edgeInWindow_none {s : State} (h : s.regs.curDrive = none) : edgeInWindow s = none := by
  rw [edgeInWindow, nextTransition_none h]

/-- A window without a transition is a 0-cell (41_pll.md R144). -/
theorem pllGetNextBit_zero {limit : Nat} {s : State} (hend : windowEnd s ≤ limit) (h : edgeInWindow s = none) :
    pllGetNextBit limit s = some (false, (s.withPll { s.pll with phaseAdjust := 0 }).withCursors (cellCursor s)) := by
  simp [pllGetNextBit, Nat.not_lt.2 hend, h]

/-- The cursors after a 0-cell, by where the window ends: one that ends where it starts, at tick 0, leaves them there in every
build (41_pll.md R144; log 6). -/
theorem cellCursor_eq (s : State) :
    cellCursor s =
      if windowEnd s < s.cur.windowStart ∧ s.cfg.negativeWindow = .hold then s.cur.windowStart else windowEnd s := by
  by_cases hhold : s.cfg.negativeWindow = .hold
  · simp only [cellCursor, Pll.windowOk, hhold, and_true, decide_eq_false_iff_not, windowEnd]
    split <;> split <;> omega
  · simp only [cellCursor, hhold, and_false, if_false]

theorem commit_drives_of_no_drive {s : State} (h : s.regs.curDrive = none) (t : Nat) : (commit t s).drives = s.drives := by
  rcases commit_cases t s with ⟨-, hc⟩ | ⟨a, -, -, hc⟩ <;> rw [hc]
  rw [State.withWbuf_drives, State.writeFlux_drives, h]
  rfl

/-- Settles O57: no drive answers never, and takes no call. -/
theorem noDriveReadsZerosAndDropsCommits : Obligations.NoDriveReadsZerosAndDropsCommits := by
  intro s h0 h1
  have hnone := curDrive_none h0 h1
  refine ⟨fun limit hend => ?_, commit_drives_of_no_drive hnone⟩
  have hexec : exec (.pllGetNextBit limit) s =
      .next (((s.withPll { s.pll with phaseAdjust := 0 }).withCursors (cellCursor s)).answer (.bit false)) := by
    simp only [exec, execPllGetNextBit, pllGetNextBit_zero hend (edgeInWindow_none hnone)]
  rw [hexec, cellCursor_eq]
  split <;> rfl

end Sys2Proof.Machine

/-! PROOF. `Sync` turn by turn (43_sequencer.md R180), and that a `Sync` on the way makes no difference (R181, 20_memory.md
R84). -/

namespace Sys2Proof.Machine

/-! ### One turn of the loop -/

/-- `Sync` looks at the state at least once. -/
theorem sync_eq_turn (now : Nat) (s : State) : ∃ fuel, sync now s = syncLoop (fuel + 1) now s :=
  ⟨2 * (now - s.cur.lastSync) + s.pll.phaseAdjust.natAbs, by rw [sync, cellBound, Nat.add_right_comm]⟩

theorem sync_of_le {now : Nat} {s : State} (h : now ≤ s.cur.lastSync) : sync now s = s := by
  obtain ⟨fuel, hturn⟩ := sync_eq_turn now s
  rw [hturn, syncLoop, if_neg (Nat.not_lt.2 h)]

/-- In IDLE or stalled the cursors move to `now`. -/
theorem sync_of_stalled {now : Nat} {s : State} (hlt : s.cur.lastSync < now) (h : s.seq.state = .idle ∨ s.pll.period = 0) :
    sync now s = s.withCursors now := by
  obtain ⟨fuel, hturn⟩ := sync_eq_turn now s
  rw [hturn, syncLoop, if_pos hlt, if_pos h]

/-- A cell that completes, and the rest of the loop: the bound reaches from the state after it as well. -/
theorem sync_of_cell {now : Nat} {s t : State} (hc : s.cur.lastSync = s.cur.windowStart) (hlt : s.cur.lastSync < now)
    (hrun : ¬ (s.seq.state = .idle ∨ s.pll.period = 0)) (ht : syncCell now s = some t) : sync now s = sync now t := by
  obtain ⟨hreach, -, hct, -⟩ := syncCell_advance (not_or.1 hrun).2 ht
  obtain ⟨fuel, hfuel⟩ : ∃ fuel : Nat, (now : Int) - s.reach ≤ fuel := ⟨_, Int.self_le_toNat _⟩
  have hturn : syncLoop (fuel + 1) now s = syncLoop fuel now t := by
    rw [syncLoop, if_pos hlt, if_neg hrun, ht]
  rw [sync_eq_syncLoop (n := fuel + 1) hc (by push_cast; omega), hturn, sync_eq_syncLoop (n := fuel) hct (by omega)]

/-! ### The limit decides only whether a cell suspends -/

theorem pllGetNextBit_limit {a b : Nat} {s : State} (ha : windowEnd s ≤ a) (hb : windowEnd s ≤ b) :
    pllGetNextBit a s = pllGetNextBit b s := by
  simp only [pllGetNextBit, Nat.not_lt.2 ha, Nat.not_lt.2 hb, if_false]

theorem pllWriteNextBit_limit (bit : Bool) {a b : Nat} {s : State} (ha : s.cur.windowStart + s.pll.period ≤ a)
    (hb : s.cur.windowStart + s.pll.period ≤ b) : pllWriteNextBit bit a s = pllWriteNextBit bit b s := by
  simp only [pllWriteNextBit, Nat.not_lt.2 ha, Nat.not_lt.2 hb, if_false]

/-- A cell that completes by `a` completes the same way by every later tick. -/
theorem syncCell_mono {a b : Nat} {s t : State} (hab : a ≤ b) (h : syncCell a s = some t) : syncCell b s = some t := by
  unfold syncCell at *
  split at h
  · rename_i hread
    obtain ⟨bit, u, hu, rfl⟩ := codecReadCell_eq_some h
    have hend := (pllGetNextBit_eq_some hu).1
    rw [if_pos hread, codecReadCell, ← pllGetNextBit_limit hend (hend.trans hab), hu]
  · rename_i hwrite
    obtain ⟨u, hu, rfl⟩ := codecWriteCell_eq_some h
    have hend := (pllWriteNextBit_eq_some hu).1
    rw [if_neg hwrite, codecWriteCell, ← pllWriteNextBit_limit _ hend (hend.trans hab), hu]

/-! ### A `Sync` on the way -/

theorem sync_withCursors {a b : Nat} {s : State} (hlt : s.cur.lastSync < a) (hab : a ≤ b)
    (h : s.seq.state = .idle ∨ s.pll.period = 0) : sync b (s.withCursors a) = sync b s := by
  rw [sync_of_stalled (hlt.trans_le hab) h]
  rcases Nat.lt_or_eq_of_le hab with hlt | rfl
  · exact sync_of_stalled (s := s.withCursors a) hlt h
  · exact sync_of_le (s := s.withCursors a) (le_refl a)

/-- However many turns of the loop up to `a` have run, the loop up to `b` ends where it would have ended (43_sequencer.md R181). -/
theorem sync_syncLoop {a b : Nat} (hab : a ≤ b) : ∀ (fuel : Nat) (s : State), s.cur.lastSync = s.cur.windowStart →
    sync b (syncLoop fuel a s) = sync b s := by
  intro fuel
  induction fuel with
  | zero => exact fun _ _ => rfl
  | succ fuel ih =>
    intro s hc
    unfold syncLoop
    split
    · rename_i hlt
      split
      · rename_i hstall
        exact sync_withCursors hlt hab hstall
      · rename_i hrun
        split
        · rfl
        · rename_i t ht
          obtain ⟨-, -, hct, -⟩ := syncCell_advance (not_or.1 hrun).2 ht
          rw [ih t hct]
          exact (sync_of_cell hc (hlt.trans_le hab) hrun (syncCell_mono hab ht)).symm
    · rfl

theorem sync_sync {a b : Nat} {s : State} (hc : s.cur.lastSync = s.cur.windowStart) (hab : a ≤ b) :
    sync b (sync a s) = sync b s :=
  sync_syncLoop hab _ s hc

/-! ### An external operation -/

/-- The operations that a build without READ_HEAD refuses: mode 2, by its byte or as a command (30_encoding.md R114). -/
def readsHead : Instr → Bool
  | .wrCmd0 v => selects 0x03#8 0x02#8 v
  | .cmdReadHead _ => true
  | _ => false

/-- An operation of the consumer or the reset port, whole: refused in a build without it, else `Sync(now)` and its own part. -/
theorem exec_external_eq {i : Instr} (hx : i.external = true) (s : State) :
    exec i s =
      if readsHead i = true ∧ s.cfg.readHead = .refuse then .refused .unsupportedCommand else afterSync (ownPart i) s := by
  cases i with
  | wrCmd0 v => simp only [exec, execWrCmd0, headRefused, readsHead, Bool.and_eq_true, beq_iff_eq]; rfl
  | cmdReadHead v => simp only [exec, execCmdReadHead, readsHead, true_and]; rfl
  | rdStat0 | rdStat1 | rdRsvd2 | rdData | rdRsvd4 | wrCmd1 | wrCmd2 | wrData | wrClk | wrSect | wrTrck | wrCell | cmdIdle
  | cmdFormat | cmdWriteSector | cmdReadSector | sync | reset => exact (if_neg (by simp [readsHead])).symm
  | crcBit | crcByte | crcOfByte | pllSetClock | pllReadReset | pllGetNextBit | pllWriteNextBit | codecReadCell | codecWriteCell
  | wbufStart | wbufCommit | wbufStop => cases hx

/-- Settles O50: the operation's own `Sync` ends where it would have ended, and what the operation is refused by is kept. -/
theorem pollingMakesNoDifference : Obligations.PollingMakesNoDifference := by
  intro i s a hx hc hle hnow
  have hports := sync_ports a s
  have hpolled : (sync a s).cur.lastSync ≤ (sync a s).now := by
    rw [hports.now]
    exact (sync_upTo hc hle).notAfter.trans hnow
  rw [exec_external_eq hx, exec_external_eq hx, hports.cfg, afterSync_of_le hpolled, afterSync_of_le (hle.trans hnow), hports.now,
    sync_sync hc hnow]

end Sys2Proof.Machine

/-! PROOF. The encoding (30_encoding.md R100 to R103, R119): the operands an encoding carries, the command a byte selects, and
that decoding and encoding agree. -/

namespace Sys2Proof

/-! ### Operand bytes (log 3) -/

/-- The tick that `bs` makes when `n` stands in the bytes before them. -/
def tickFrom (n : Nat) (bs : List Byte) : Nat := bs.foldl (fun m b => 256 * m + b.toNat) n

theorem tickOfBytes_eq_tickFrom (bs : List Byte) : tickOfBytes bs = tickFrom 0 bs := rfl

theorem tickFrom_cons (n : Nat) (b : Byte) (bs : List Byte) : tickFrom n (b :: bs) = tickFrom (256 * n + b.toNat) bs := rfl

/-- The bytes written ahead of `acc` are read back as `n`. -/
theorem tickFrom_bytesOfTickAcc {fuel n : Nat} (acc : List Byte) (h : n ≤ fuel) :
    tickFrom 0 (bytesOfTickAcc fuel n acc) = tickFrom n acc := by
  induction fuel generalizing n acc with
  | zero => rw [Nat.le_zero.1 h, bytesOfTickAcc]
  | succ fuel ih =>
    cases n with
    | zero => rw [bytesOfTickAcc]
    | succ n =>
      have hsplit : 256 * ((n + 1) / 256) + (BitVec.ofNat 8 (n + 1)).toNat = n + 1 := Nat.div_add_mod (n + 1) 256
      rw [bytesOfTickAcc, ih _ (by omega), tickFrom_cons, hsplit]

@[simp] theorem tickOfBytes_bytesOfTick (n : Nat) : tickOfBytes (bytesOfTick n) = n :=
  (tickOfBytes_eq_tickFrom _).trans (tickFrom_bytesOfTickAcc [] (Nat.le_refl n))

@[simp] theorem bitOfByte_byteOfBit (b : Bool) : bitOfByte (byteOfBit b) = .ok b := by
  cases b <;> rfl

/-- The two bytes of a word, high byte first, are the word. -/
@[simp] theorem wordOfBytes_bytesOfWord (w : Word16) : (w.extractLsb' 8 8 ++ w.extractLsb' 0 8 : Word16) = w :=
  (BitVec.extractLsb'_append_extractLsb'_eq_extractLsb' rfl).trans BitVec.extractLsb'_eq_self

/-! ### The command a byte selects (30_encoding.md R103) -/

theorem selects_iff {mask want v : Byte} : selects mask want v = true ↔ v &&& mask = want := beq_iff_eq

/-- Mask 7 compares the mode bits and the write gate, which are the byte modulo 8. -/
theorem selects_seven_iff {want v : Byte} : selects 0x07#8 want v = true ↔ v.toNat % 8 = want.toNat := by
  rw [selects_iff, ← BitVec.toNat_inj, BitVec.toNat_and]
  exact iff_of_eq (congrArg (· = want.toNat) (Nat.and_two_pow_sub_one_eq_mod v.toNat 3))

/-- Mask 3 compares the mode bits, which are the byte modulo 4. -/
theorem selects_three_iff {want v : Byte} : selects 0x03#8 want v = true ↔ v.toNat % 4 = want.toNat := by
  rw [selects_iff, ← BitVec.toNat_inj, BitVec.toNat_and]
  exact iff_of_eq (congrArg (· = want.toNat) (Nat.and_two_pow_sub_one_eq_mod v.toNat 2))

/-- The byte of an operation that is a command. -/
def Instr.commandByte : Instr → Option Byte
  | .cmdIdle v | .cmdFormat v | .cmdWriteSector v | .cmdReadHead v | .cmdReadSector v => some v
  | _ => none

/-- A byte that two rows match makes their matches agree on the bits that both masks compare. -/
theorem selects_agree {mask want mask' want' v : Byte} (h : selects mask want v = true) (h' : selects mask' want' v = true) :
    want &&& mask' = want' &&& mask := by
  rw [← selects_iff.1 h, ← selects_iff.1 h']
  ac_rfl

theorem not_selects {mask want mask' want' v : Byte} (h : selects mask want v = true)
    (hne : want &&& mask' ≠ want' &&& mask) : ¬ selects mask' want' v = true :=
  fun h' => hne (selects_agree h h')

/-- Every byte meets some row: modes 1 to 3 whatever the write gate, mode 0 with it off or on. -/
theorem selects_some_command (v : Byte) :
    selects 0x07#8 0x00#8 v = true ∨ selects 0x07#8 0x04#8 v = true ∨ selects 0x03#8 0x01#8 v = true ∨
      selects 0x03#8 0x02#8 v = true ∨ selects 0x03#8 0x03#8 v = true := by
  simp only [selects_seven_iff, selects_three_iff, BitVec.toNat_ofNat]
  omega

/-- The byte selects the command it is read as; read-sector is what the other four rows leave. -/
theorem commandOf_wf (v : Byte) : (commandOf v).wf = true := by
  unfold commandOf
  split_ifs with hidle hformat hwrite hhead
  · exact hidle
  · exact hformat
  · exact hwrite
  · exact hhead
  · show selects 0x03#8 0x03#8 v = true
    simpa only [hidle, hformat, hwrite, hhead, Bool.false_eq_true, false_or] using selects_some_command v

/-- No byte selects two commands. -/
theorem commandOf_eq_of_wf {i : Instr} {v : Byte} (hv : i.commandByte = some v) (hwf : i.wf = true) : commandOf v = i := by
  cases i <;> cases hv
  case cmdIdle => exact if_pos hwf
  case cmdFormat =>
    have hrow : selects 0x07#8 0x04#8 v = true := hwf
    rw [commandOf, if_neg, if_pos hrow]
    exact not_selects hwf (by decide)
  case cmdWriteSector =>
    have hrow : selects 0x03#8 0x01#8 v = true := hwf
    rw [commandOf, if_neg, if_neg, if_pos hrow]
    all_goals exact not_selects hwf (by decide)
  case cmdReadHead =>
    have hrow : selects 0x03#8 0x02#8 v = true := hwf
    rw [commandOf, if_neg, if_neg, if_neg, if_pos hrow]
    all_goals exact not_selects hwf (by decide)
  case cmdReadSector =>
    rw [commandOf, if_neg, if_neg, if_neg, if_neg]
    all_goals exact not_selects hwf (by decide)

theorem commandOf_eq_iff {i : Instr} {v : Byte} (hv : i.commandByte = some v) : commandOf v = i ↔ i.wf = true :=
  ⟨fun h => h ▸ commandOf_wf v, commandOf_eq_of_wf hv⟩

theorem decode_cmd0 (v : Byte) : decode .cmd0 [v] = .ok (commandOf v) := rfl

theorem decode_cmd0_eq_iff {i : Instr} {v : Byte} (hv : i.commandByte = some v) :
    decode .cmd0 [v] = .ok i ↔ i.wf = true := by
  rw [decode_cmd0, Except.ok.injEq, commandOf_eq_iff hv]

/-! ### What is encoded is decoded -/

/-- Offsets 4 to 7 keep their number (30_encoding.md R101). -/
theorem decode_rdRsvd4 : ∀ offset : BitVec 3, offset.getLsbD 2 = true →
    decode .bus [offset.zeroExtend 8] = .ok (.rdRsvd4 offset) := by
  decide

theorem decodeTick_bytesOfTick (f : Nat → Instr) (n : Nat) : decodeTick f (bytesOfTick n) = .ok (f n) := by
  rw [decodeTick, tickOfBytes_bytesOfTick]

/-- Settles O1: format by format. A bus access and a bare engine operation are read by their first byte alone, a command by
the row it selects, an operand by its own round trip. -/
theorem decodeEncodeRoundTrip : Obligations.DecodeEncodeRoundTrip := by
  intro i hwf
  cases i with
  | rdStat0 | rdStat1 | rdRsvd2 | rdData => rfl
  | wrCmd0 | wrCmd1 | wrCmd2 | wrData | wrClk | wrSect | wrTrck | wrCell => rfl
  | rdRsvd4 offset => exact decode_rdRsvd4 offset hwf
  | cmdIdle | cmdFormat | cmdWriteSector | cmdReadHead | cmdReadSector => exact (decode_cmd0_eq_iff rfl).2 hwf
  | crcBit crc bit => simp [decode, encode, decodeEngine, decodeTag, decodeCrcBit, Except.map]
  | crcByte crc b => simp [decode, encode, decodeEngine, decodeTag, decodeCrcByte]
  | pllWriteNextBit bit limit => simp [decode, encode, decodeEngine, decodeTag, decodePllWrite, Except.map]
  | pllSetClock n | pllReadReset n | pllGetNextBit n | codecReadCell n | codecWriteCell n | wbufStart n | wbufCommit n
  | wbufStop n => exact decodeTick_bytesOfTick _ n
  | crcOfByte | sync | reset => rfl

/-- The round trip, for a word that is given as the encoding of an operation. -/
theorem decode_of_encode_eq {i : Instr} {fmt : Format} {bytes : List Byte} (he : encode i = (fmt, bytes)) (hwf : i.wf = true) :
    decode fmt bytes = .ok i := by
  simpa only [he] using decodeEncodeRoundTrip i hwf

/-- Settles O3: every word of the list is the encoding of its operation. -/
theorem writtenOutWordsDecode : Obligations.WrittenOutWordsDecode := by
  refine ⟨?_, ?_, ?_, ?_, ?_, ?_, ?_, ?_, fun v => ⟨?_, ?_, ?_, ?_, ?_, ?_, ?_, ?_⟩, ?_, ?_, ?_, ?_, ?_⟩
  all_goals exact decode_of_encode_eq rfl rfl

/-- Settles O4: a command is decoded from its byte exactly when it is well-formed, which is its row's match, and the command
that the byte does decode to has its match. -/
theorem everyCommandByteSelectsOneCommand : Obligations.EveryCommandByteSelectsOneCommand := by
  intro v
  refine ⟨?_, ?_, ?_, ?_, ?_, by simpa only [selects_iff] using selects_some_command v⟩
  all_goals exact (decode_cmd0_eq_iff rfl).trans selects_iff

/-! ### What is decoded is well-formed -/

/-- Whatever operation a decoder answers is well-formed. -/
def GivesWf (answer : Except DecodeError Instr) : Prop := ∀ i, answer = .ok i → i.wf = true

@[simp] theorem givesWf_error (e : DecodeError) : GivesWf (.error e) := fun _ h => nomatch h

@[simp] theorem givesWf_ok (i : Instr) : GivesWf (.ok i) ↔ i.wf = true :=
  ⟨fun h => h i rfl, fun h _ he => Except.ok.inj he ▸ h⟩

theorem givesWf_map {f : Bool → Instr} (hf : ∀ b, (f b).wf = true) (bit : Except DecodeError Bool) : GivesWf (bit.map f) := by
  cases bit with
  | error e => exact givesWf_error e
  | ok b => exact (givesWf_ok _).2 (hf b)

theorem givesWf_decodeRead {i : Instr} (h : i.wf = true) (lines : List Byte) : GivesWf (decodeRead i lines) := by
  unfold decodeRead
  split <;> simp [h]

theorem givesWf_decodeWrite {f : Byte → Instr} (hf : ∀ v, (f v).wf = true) (lines : List Byte) :
    GivesWf (decodeWrite f lines) := by
  unfold decodeWrite
  split <;> simp [hf]

theorem givesWf_decodeTick {f : Nat → Instr} (hf : ∀ n, (f n).wf = true) (operands : List Byte) :
    GivesWf (decodeTick f operands) :=
  (givesWf_ok _).2 (hf _)

theorem givesWf_decodeBare {i : Instr} (h : i.wf = true) (operands : List Byte) : GivesWf (decodeBare i operands) := by
  unfold decodeBare
  split <;> simp [h]

/-- The words of a read at offsets 4 to 7 have bit 2 set. -/
theorem rdRsvd4_wf_of_range {op : BitVec 4} (hlo : 4 ≤ op.toNat) (hhi : op.toNat < 8) :
    (Instr.rdRsvd4 (op.extractLsb' 0 3)).wf = true := by
  have hbit : op.toNat / 2 ^ 2 % 2 = 1 := by omega
  rw [Instr.wf, BitVec.getLsbD_extractLsb', BitVec.getLsbD, Nat.testBit_eq_decide_div_mod_eq]
  simpa using hbit

theorem givesWf_decodeBusOp (op : BitVec 4) (lines : List Byte) : GivesWf (decodeBusOp op lines) := by
  unfold decodeBusOp
  split
  case h_1 | h_2 | h_3 | h_4 => exact givesWf_decodeRead rfl _
  case h_5 | h_6 | h_7 | h_8 | h_9 | h_10 | h_11 | h_12 => exact givesWf_decodeWrite (fun _ => rfl) _
  case h_13 =>
    have hlt : op.toNat < 16 := op.isLt
    obtain ⟨hlo, hhi⟩ : 4 ≤ op.toNat ∧ op.toNat < 8 := by
      simp only [imp_false] at *
      omega
    exact givesWf_decodeRead (rdRsvd4_wf_of_range hlo hhi) _

theorem givesWf_decodeBus (bytes : List Byte) : GivesWf (decodeBus bytes) := by
  unfold decodeBus
  split
  · exact givesWf_error _
  · split
    · exact givesWf_decodeBusOp _ _
    · exact givesWf_error _

theorem givesWf_decodeCmd0 (bytes : List Byte) : GivesWf (decodeCmd0 bytes) := by
  unfold decodeCmd0
  split <;> simp [commandOf_wf]

theorem givesWf_decodeCrcBit (operands : List Byte) : GivesWf (decodeCrcBit operands) := by
  unfold decodeCrcBit
  split
  · exact givesWf_map (fun _ => rfl) _
  · exact givesWf_error _
  · exact givesWf_error _

theorem givesWf_decodeCrcByte (operands : List Byte) : GivesWf (decodeCrcByte operands) := by
  unfold decodeCrcByte
  split <;> simp [Instr.wf]

theorem givesWf_decodeCrcOfByte (operands : List Byte) : GivesWf (decodeCrcOfByte operands) := by
  unfold decodeCrcOfByte
  split <;> simp [Instr.wf]

theorem givesWf_decodePllWrite (operands : List Byte) : GivesWf (decodePllWrite operands) := by
  unfold decodePllWrite
  split
  · exact givesWf_error _
  · exact givesWf_map (fun _ => rfl) _

theorem givesWf_decodeTag (tag : Nat) (operands : List Byte) : GivesWf (decodeTag tag operands) := by
  unfold decodeTag
  split
  case h_1 => exact givesWf_decodeCrcBit _
  case h_2 => exact givesWf_decodeCrcByte _
  case h_3 => exact givesWf_decodeCrcOfByte _
  case h_7 => exact givesWf_decodePllWrite _
  case h_13 | h_14 => exact givesWf_decodeBare rfl _
  case h_4 | h_5 | h_6 | h_8 | h_9 | h_10 | h_11 | h_12 => exact givesWf_decodeTick (fun _ => rfl) _
  case h_15 => exact givesWf_error _

theorem givesWf_decodeEngine (bytes : List Byte) : GivesWf (decodeEngine bytes) := by
  unfold decodeEngine
  split
  · exact givesWf_error _
  · exact givesWf_decodeTag _ _

/-- Settles O2: only a reserved read and a command have anything to check, and their decoders check it. -/
theorem decodingGivesWellFormedOperations : Obligations.DecodingGivesWellFormedOperations := by
  intro fmt bytes
  cases fmt with
  | bus => exact givesWf_decodeBus bytes
  | cmd0 => exact givesWf_decodeCmd0 bytes
  | engine => exact givesWf_decodeEngine bytes

end Sys2Proof

/-! PROOF. What a build refuses (30_encoding.md R114) and ticks that go back (70_reset_and_hazards.md R331). -/

namespace Sys2Proof.Machine

/-- A build without mode 2 refuses what uses it, at any tick. -/
theorem exec_of_readsHead {i : Instr} {s : State} (hx : i.external = true) (hi : readsHead i = true)
    (hs : s.cfg.readHead = .refuse) : exec i s = .refused .unsupportedCommand := by
  rw [exec_external_eq hx, if_pos ⟨hi, hs⟩]

/-- Any other operation of the consumer is refused at a tick before `last_sync`, for that tick. -/
theorem exec_of_earlier {i : Instr} {s : State} (hx : i.external = true)
    (hi : ¬ (readsHead i = true ∧ s.cfg.readHead = .refuse)) (hlt : s.now < s.cur.lastSync) :
    exec i s = .refused .timeBackward := by
  rw [exec_external_eq hx, if_neg hi, afterSync_of_lt hlt]

/-- Settles O19: an operation using mode 2 may be refused for either cause, every other for its tick alone. -/
theorem unsupportedAndBackwardOperationsAreRefused : Obligations.UnsupportedAndBackwardOperationsAreRefused := by
  intro s
  refine ⟨fun hs v hv => ⟨?_, ?_⟩, fun hlt i hx => ⟨?_, fun hs => ?_⟩, fun r rest hin hlt => ?_⟩
  · exact exec_of_readsHead rfl (selects_iff.2 hv) hs
  · exact exec_of_readsHead rfl rfl hs
  · by_cases hi : readsHead i = true ∧ s.cfg.readHead = .refuse
    · obtain ⟨hhead, hs⟩ := hi
      exact ⟨_, exec_of_readsHead hx hhead hs⟩
    · exact ⟨_, exec_of_earlier hx hi hlt⟩
  · exact exec_of_earlier hx (fun hi => by simp [hs] at hi) hlt
  · cases hd : decode r.fmt r.bytes with
    | error e => exact ⟨_, step_of_undecodable hin hd⟩
    | ok i => exact ⟨_, step_of_earlier hin hd hlt⟩

end Sys2Proof.Machine

/-! PROOF. The CRC engine (40_crc.md): the serial update, the byte fold, the round trip. -/

namespace Sys2Proof.Machine

/-! ### The serial update -/

theorem crcBit_of_ne {c : Word16} {bit : Bool} (h : c.getLsbD 15 ≠ bit) : crcBit c bit = (c <<< 1) ^^^ 0x1021#16 :=
  if_pos (bne_iff_ne.2 h)

theorem crcBit_of_eq {c : Word16} {bit : Bool} (h : c.getLsbD 15 = bit) : crcBit c bit = c <<< 1 := by
  rw [crcBit, h, Bool.xor_self, if_neg Bool.false_ne_true]

theorem exec_crcBit (c : Word16) (bit : Bool) (s : State) :
    exec (.crcBit c bit) s = .next (s.answer (.word (crcBit c bit))) := rfl

/-- Settles O28: the polynomial is taken in exactly when the bit differs from the one shifted out. -/
theorem crcBitIsTheSerialUpdate : Obligations.CrcBitIsTheSerialUpdate := by
  intro s c bit
  rw [exec_crcBit]
  split
  case isTrue h => rw [crcBit_of_ne h, State.answer]
  case isFalse h => rw [crcBit_of_eq (not_not.1 h), State.answer]

/-! ### The byte fold -/

/-- Fed its own leading bits, the register never takes in the polynomial: bit `15 - n` is on top after `n` shifts. -/
theorem foldl_crcBit_leading (c : Word16) (n : Nat) (hn : n ≤ 16) :
    (List.range n).foldl (fun r i => crcBit r (c.getLsbD (15 - i))) c = c <<< n := by
  induction n with
  | zero => simp
  | succ n ih =>
    have htop : (c <<< n).getLsbD 15 = c.getLsbD (15 - n) := by
      have hlt : ¬ 15 < n := by omega
      simp [BitVec.getLsbD_shiftLeft, hlt, -BitVec.getLsbD_eq_getElem]
    rw [List.range_succ, List.foldl_concat, ih (by omega), crcBit_of_eq htop, BitVec.shiftLeft_add]

/-- `CrcByte` over the bits of the byte, its most significant first. -/
theorem crcByte_eq_foldl_range (c : Word16) (b : Byte) :
    crcByte c b = (List.range 8).foldl (fun r i => crcBit r (b.getLsbD (7 - i))) c := rfl

theorem crcByte_high (c : Word16) : crcByte c (c.extractLsb' 8 8) = c.extractLsb' 0 8 ++ 0x00#8 := by
  have hbits : ∀ r, ∀ i ∈ List.range 8,
      crcBit r ((c.extractLsb' 8 8).getLsbD (7 - i)) = crcBit r (c.getLsbD (15 - i)) := by
    intro r i hi
    have hlt : i < 8 := List.mem_range.1 hi
    rw [BitVec.getLsbD_extractLsb', show 8 + (7 - i) = 15 - i by omega, decide_eq_true (show 7 - i < 8 by omega),
      Bool.true_and]
  calc crcByte c (c.extractLsb' 8 8)
      = (List.range 8).foldl (fun r i => crcBit r (c.getLsbD (15 - i))) c := by
        rw [crcByte_eq_foldl_range, List.foldl_ext _ _ _ hbits]
    _ = c <<< 8 := foldl_crcBit_leading c 8 (by omega)
    _ = c.extractLsb' 0 8 ++ 0x00#8 := BitVec.shiftLeft_eq_concat_of_lt (by omega)

theorem exec_crcByte (c : Word16) (b : Byte) (s : State) :
    exec (.crcByte c b) s = .next (s.answer (.word (crcByte c b))) := rfl

theorem exec_crcOfByte (b : Byte) (s : State) :
    exec (.crcOfByte b) s = .next (s.answer (.word (crcByte 0xFFFF#16 b))) := rfl

/-- Settles O29: the operations apply the fold, the register fed its own high byte shifts, and the spec's values are computed. -/
theorem crcByteFoldsEightBits : Obligations.CrcByteFoldsEightBits := by
  refine ⟨fun s c b => ⟨exec_crcByte c b s, exec_crcOfByte b s⟩, ?_, crcByte_high, ?_, ?_, ?_⟩
  all_goals decide

/-! ### The round trip -/

/-- A register fed its own two bytes is empty: the first leaves the low byte on top, the second shifts that out. -/
theorem crcByte_high_low (c : Word16) : crcByte (crcByte c (c.extractLsb' 8 8)) (c.extractLsb' 0 8) = 0x0000#16 := by
  have hshift := crcByte_high (c.extractLsb' 0 8 ++ 0x00#8)
  rw [BitVec.extractLsb'_append_eq_left, BitVec.extractLsb'_append_eq_right] at hshift
  rw [crcByte_high, hshift]
  rfl

/-- Settles O30: the fold of the sequence is `c`, and `c` fed its own two bytes is empty. -/
theorem crcRoundTripGivesZero : Obligations.CrcRoundTripGivesZero := by
  intro seed bs c
  rw [List.foldl_append]
  exact crcByte_high_low _

end Sys2Proof.Machine

/-! PROOF. The PLL's operations on their own (41_pll.md R140 to R150): setting up, one written cell, one read cell. -/

namespace Sys2Proof.Machine

/-! ### Setting up -/

theorem exec_pllReadReset (t : Nat) (s : State) : exec (.pllReadReset t) s = .next ((pllReadReset t s).answer .nothing) := rfl

theorem exec_pllSetClock (p : Nat) (s : State) : exec (.pllSetClock p) s = .next ((setClock p s).answer .nothing) := rfl

/-- Settles O31: both operations are their updates, which write these registers alone. -/
theorem pllSetUpOperations : Obligations.PllSetUpOperations :=
  ⟨fun s t => exec_pllReadReset t s, fun s p => exec_pllSetClock p s⟩

/-! ### One written cell -/

theorem appendCell_eq (bit : Bool) (s : State) :
    appendCell bit s =
      s.withWbuf { s.wbuf with
        ticks := s.wbuf.ticks ++ (if bit then [s.cur.windowStart + s.pll.period / 2] else []) } := by
  cases bit with
  | true => rfl
  | false => simp [appendCell, State.withWbuf]

theorem exec_pllWriteNextBit_suspend {bit : Bool} {limit : Nat} {s : State} (h : limit < s.cur.windowStart + s.pll.period) :
    exec (.pllWriteNextBit bit limit) s = .next (s.answer .suspend) := by
  simp only [exec, execPllWriteNextBit, (pllWriteNextBit_eq_none bit limit s).2 h]

theorem exec_pllWriteNextBit_done {bit : Bool} {limit : Nat} {s : State} (h : s.cur.windowStart + s.pll.period ≤ limit) :
    exec (.pllWriteNextBit bit limit) s =
      .next ((commitIfFull (s.cur.windowStart + s.pll.period)
        ((appendCell bit s).withCursors (s.cur.windowStart + s.pll.period))).answer .done) := by
  simp only [exec, execPllWriteNextBit, pllWriteNextBit, if_neg (Nat.not_lt.2 h)]

/-- Settles O34: the cell's transition is appended, and the buffer handed on when that filled it. -/
theorem writeCellBuffersItsTransition : Obligations.WriteCellBuffersItsTransition := by
  intro s bit limit e w
  have hw : (appendCell bit s).withCursors e = w := by rw [appendCell_eq]; rfl
  refine ⟨exec_pllWriteNextBit_suspend, fun hle hroom => ?_, fun hle hfull => ?_⟩
  · rw [exec_pllWriteNextBit_done hle, hw, commitIfFull, if_neg hroom]
    rfl
  · rw [exec_pllWriteNextBit_done hle, hw, commitIfFull, if_pos hfull]
    rfl

/-! ### Rounding, history and nudge as integers -/

/-- `trunc` is Lean's division toward zero (41_pll.md R146, R152). -/
theorem truncDiv_eq_tdiv (a : Int) (b : Nat) : truncDiv a b = a.tdiv b := by
  cases a with
  | ofNat n =>
    cases n with
    | zero => simp [truncDiv]
    | succ n => exact Int.one_mul _
  | negSucc n => exact Int.neg_one_mul _

theorem clamp_toNat (v : Int) (lo hi : Nat) :
    (clamp v lo hi).toNat = if v < lo then lo else if (hi : Int) < v then hi else v.toNat := by
  unfold clamp
  split
  · rfl
  · split <;> rfl

/-- The counter of R147 as an integer. -/
def histStep (h delta : Int) : Int :=
  if delta < 0 then (if h < 0 then max (h - 1) (-128) else -1)
  else if 0 < delta then (if 0 < h then min (h + 1) 127 else 1)
  else 0

theorem freqStep_eq (h : BitVec 8) (delta : Int) : freqStep h delta = BitVec.ofInt 8 (histStep h.toInt delta) := by
  unfold freqStep histStep
  repeat' split
  all_goals rfl

/-- It saturates within eight bits (41_pll.md R147). -/
theorem histStep_bounds (h : BitVec 8) (delta : Int) : -128 ≤ histStep h.toInt delta ∧ histStep h.toInt delta ≤ 127 := by
  have hlo := h.le_toInt
  have hhi := h.toInt_lt
  unfold histStep
  repeat' split
  all_goals omega

theorem freqStep_toInt (h : BitVec 8) (delta : Int) : (freqStep h delta).toInt = histStep h.toInt delta := by
  obtain ⟨hlo, hhi⟩ := histStep_bounds h delta
  rw [freqStep_eq, BitVec.toInt_ofInt_eq_self (by omega) (by omega) (by omega)]

/-- The correction of a transition, in R146's to R148's own terms. -/
theorem Pll.correct_eq {r : Pll} (hp : 1 ≤ r.period) (cfg : Config) (delta : Int) :
    r.correct cfg delta =
      { r with
        phaseAdjust := (65 * delta).tdiv 100
        freqHist := BitVec.ofInt 8 (histStep r.freqHist.toInt delta)
        period :=
          if cfg.freqThreshold < (histStep r.freqHist.toInt delta).natAbs then
            (if (r.period : Int) + ((r.adjustBase : Int) * delta).tdiv r.period < r.minPeriod then r.minPeriod
             else if (r.maxPeriod : Int) < (r.period : Int) + ((r.adjustBase : Int) * delta).tdiv r.period then r.maxPeriod
             else ((r.period : Int) + ((r.adjustBase : Int) * delta).tdiv r.period).toNat)
          else r.period } := by
  have hnudge : r.nudge delta = ((r.adjustBase : Int) * delta).tdiv r.period := by
    rw [Pll.nudge, if_neg (by omega), truncDiv_eq_tdiv]
  simp only [Pll.correct, hnudge, clamp_toNat, freqStep_toInt]
  rw [truncDiv_eq_tdiv, freqStep_eq]
  rfl

/-! ### One read cell -/

theorem lt_windowEnd_iff {s : State} {t : Nat} :
    t < windowEnd s ↔ (t : Int) < (s.cur.windowStart : Int) + s.pll.period + s.pll.phaseAdjust := Int.lt_toNat

theorem windowEnd_le_iff {s : State} {t : Nat} :
    windowEnd s ≤ t ↔ (s.cur.windowStart : Int) + s.pll.period + s.pll.phaseAdjust ≤ t := Int.toNat_le

/-- No transition decides the window when the first at or after its start, if any, is not before its end (41_pll.md R144). -/
theorem edgeInWindow_eq_none {s : State} :
    edgeInWindow s = none ↔ ∀ edge, nextTransition s s.cur.windowStart = some edge → windowEnd s ≤ edge := by
  simp only [Option.eq_none_iff_forall_ne_some, ne_eq, edgeInWindow_eq_some, not_and, Nat.not_lt]

theorem pllGetNextBit_one {limit edge : Nat} {s : State} (hend : windowEnd s ≤ limit) (h : edgeInWindow s = some edge) :
    pllGetNextBit limit s =
      some (true, (s.withPll (s.pll.correct s.cfg (edgeDelta s edge))).withCursors (windowEnd s)) := by
  simp only [pllGetNextBit, if_neg (Nat.not_lt.2 hend), h]

theorem exec_pllGetNextBit_suspend {limit : Nat} {s : State} (h : limit < windowEnd s) :
    exec (.pllGetNextBit limit) s = .next (s.answer .suspend) := by
  simp only [exec, execPllGetNextBit, (pllGetNextBit_eq_none limit s).2 h]

theorem exec_pllGetNextBit_zero {limit : Nat} {s : State} (hend : windowEnd s ≤ limit) (h : edgeInWindow s = none) :
    exec (.pllGetNextBit limit) s =
      .next (((s.withPll { s.pll with phaseAdjust := 0 }).withCursors (cellCursor s)).answer (.bit false)) := by
  simp only [exec, execPllGetNextBit, pllGetNextBit_zero hend h]

theorem exec_pllGetNextBit_one {limit edge : Nat} {s : State} (hend : windowEnd s ≤ limit) (h : edgeInWindow s = some edge) :
    exec (.pllGetNextBit limit) s =
      .next (((s.withPll (s.pll.correct s.cfg (edgeDelta s edge))).withCursors (windowEnd s)).answer (.bit true)) := by
  simp only [exec, execPllGetNextBit, pllGetNextBit_one hend h]

/-- Where a transition lies in the window, its end is the exact sum, so `delta` is R146's (41_pll.md R142). -/
theorem edgeDelta_eq {s : State} {edge : Nat} (h : edge < windowEnd s) :
    edgeDelta s edge =
      (edge : Int) -
        ((s.cur.windowStart : Int) + s.pll.period + s.pll.phaseAdjust - ((s.pll.period / 2 : Nat) : Int)) := by
  unfold edgeDelta windowEnd at *
  omega

theorem Pll.windowOk_iff (r : Pll) : r.windowOk = true ↔ 0 ≤ (r.period : Int) + r.phaseAdjust := decide_eq_true_iff

theorem Pll.windowOk_eq_false (r : Pll) : r.windowOk = false ↔ (r.period : Int) + r.phaseAdjust < 0 := by
  rw [← Bool.not_eq_true, r.windowOk_iff, Int.not_le]

/-- Settles O32: the three outcomes of `PllGetNextBit`; held cursors are those of a window that ends before its start. -/
theorem readCellDecidesAndCorrects : Obligations.ReadCellDecidesAndCorrects := by
  intro s limit hp next atEnd held
  refine ⟨fun hlt => exec_pllGetNextBit_suspend (lt_windowEnd_iff.2 hlt), fun hle hnone => ?_,
    fun hle edge hnext hedge => ?_⟩
  · have hempty : edgeInWindow s = none := edgeInWindow_eq_none.2 fun edge he => windowEnd_le_iff.2 (hnone edge he)
    have hneg : s.pll.windowOk = false ↔ next < (s.cur.windowStart : Int) := by
      rw [Pll.windowOk_eq_false]
      omega
    have hcursor : cellCursor s =
        if next < (s.cur.windowStart : Int) ∧ s.cfg.negativeWindow = .hold then s.cur.windowStart else windowEnd s := by
      simp only [cellCursor, hneg]
    rw [exec_pllGetNextBit_zero (windowEnd_le_iff.2 hle) hempty, hcursor]
    split <;> rfl
  · have hin : edge < windowEnd s := lt_windowEnd_iff.2 hedge
    rw [exec_pllGetNextBit_one (windowEnd_le_iff.2 hle) (edgeInWindow_eq_some.2 ⟨hnext, hin⟩), edgeDelta_eq hin,
      Pll.correct_eq hp]
    rfl

end Sys2Proof.Machine

/-! PROOF. At a constant cell length no window is negative, and a negative one is a 0-cell (41_pll.md R153 (d)). -/

namespace Sys2Proof.Machine

/-! ### Bounds of a phase correction -/

theorem truncDiv_mono {a b : Int} (h : a ≤ b) {c : Nat} (hc : 0 < c) : truncDiv a c ≤ truncDiv b c := by
  rw [truncDiv_eq_tdiv, truncDiv_eq_tdiv]
  exact Int.tdiv_le_tdiv (by omega) h

theorem truncDiv_natCast (n c : Nat) : truncDiv n c = ((n / c : Nat) : Int) := truncDiv_eq_tdiv n c

theorem truncDiv_neg (a : Int) (c : Nat) : truncDiv (-a) c = -truncDiv a c := by
  rw [truncDiv_eq_tdiv, truncDiv_eq_tdiv, Int.neg_tdiv]

/-- A transition at most `n` ticks late is corrected by at most 0.65 of them (41_pll.md R146). -/
theorem phaseCorrection_le {delta : Int} {n : Nat} (h : delta ≤ n) :
    truncDiv (65 * delta) 100 ≤ ((65 * n / 100 : Nat) : Int) := by
  rw [← truncDiv_natCast]
  exact truncDiv_mono (by omega) (by decide)

/-- One at most `n` ticks early, likewise. -/
theorem neg_le_phaseCorrection {delta : Int} {n : Nat} (h : -(n : Int) ≤ delta) :
    -((65 * n / 100 : Nat) : Int) ≤ truncDiv (65 * delta) 100 := by
  rw [← truncDiv_natCast, ← truncDiv_neg]
  exact truncDiv_mono (by omega) (by decide)

/-! ### What a cell can do to a steady PLL -/

section Steady

variable {p : Nat} {s t : State}

/-- Steadiness speaks of the PLL's registers alone. -/
theorem Steady.of_pll (h : Steady p s) (hpll : t.pll = s.pll) : Steady p t where
  bounds := hpll ▸ h.bounds
  period := hpll ▸ h.period
  late := hpll ▸ h.late
  early := hpll ▸ h.early

/-- A standing phase correction may be cleared, and the history is free. -/
theorem Steady.of_cleared (h : Steady p s) {hist : BitVec 8}
    (hpll : t.pll = { s.pll with phaseAdjust := 0, freqHist := hist }) : Steady p t where
  bounds := hpll ▸ h.bounds
  period := hpll ▸ h.period
  late := by rw [hpll]; exact Int.natCast_nonneg _
  early := by rw [hpll]; exact Int.neg_nonpos_of_nonneg (Int.natCast_nonneg _)

/-- The setting of the clock leaves the nominal period within its bounds (41_pll.md R141). -/
theorem Steady.setClock (p : Nat) (h : s.pll.phaseAdjust = 0) : Steady p (setClock p s) where
  bounds := ⟨rfl, rfl⟩
  period := by simp only [setClock_eq, State.withPll_pll, Pll.setClock]; omega
  late := by simp only [setClock_eq, State.withPll_pll, Pll.setClock, h]; omega
  early := by simp only [setClock_eq, State.withPll_pll, Pll.setClock, h]; omega

/-- 41_pll.md R153 (d): the earliest correction that periods within 25% of `p` allow is shorter than the shortest of them. -/
theorem Steady.windowOk (h : Steady p s) : s.pll.windowOk = true := by
  obtain ⟨⟨hmin, hmax⟩, ⟨hlo, -⟩, -, hearly⟩ := h
  rw [Pll.windowOk_iff]
  rw [hmax] at hearly
  omega

/-- How early and how late a transition in a steady PLL's window can be (41_pll.md R146). -/
theorem Steady.edgeDelta_bounds (h : Steady p s) {edge : Nat} (he : edgeInWindow s = some edge) :
    edgeDelta s edge ≤ ((s.pll.maxPeriod / 2 : Nat) : Int) ∧
    -(((s.pll.maxPeriod + 1) / 2 + 65 * (s.pll.maxPeriod / 2) / 100 : Nat) : Int) ≤ edgeDelta s edge := by
  obtain ⟨hstart, hend⟩ := edgeInWindow_bounds he
  have hlate := h.late
  have hperiod := h.period
  have hend' := lt_windowEnd_iff.1 hend
  rw [edgeDelta_eq hend]
  omega

/-- A read cell keeps the PLL steady: its correction is 0.65 of such a `delta`, and the nudge is clamped. -/
theorem Steady.pllGetNextBit (h : Steady p s) {limit : Nat} {b : Bool} (hc : Machine.pllGetNextBit limit s = some (b, t)) :
    Steady p t := by
  rcases (pllGetNextBit_eq_some hc).2 with ⟨-, -, rfl⟩ | ⟨edge, he, -, rfl⟩
  · exact h.of_cleared rfl
  · obtain ⟨hlate, hearly⟩ := h.edgeDelta_bounds he
    exact ⟨h.bounds, Pll.correct_period h.period _ _, phaseCorrection_le hlate, neg_le_phaseCorrection hearly⟩

/-- A boundary of a write keeps the PLL, or resets its phase at the write's end (43_sequencer.md R202). -/
theorem writeBoundary_pll (s : State) :
    (writeBoundary s).pll = s.pll ∨ (writeBoundary s).pll = { s.pll with phaseAdjust := 0, freqHist := 0#8 } := by
  unfold writeBoundary
  cases s.seq.state with
  | writeSectorSync =>
    simp only [writeSyncBoundary]
    split <;> exact .inl rfl
  | writeSector =>
    simp only [writeSectorBoundary]
    split <;> exact .inl rfl
  | writeCrc =>
    simp only [writeCrcBoundary]
    split
    · exact .inl rfl
    · exact .inr (by simp [writeComplete, stopWriting, commit_clock])
  | format => exact .inl rfl
  | idle | readWaitHeaderSync | readVerifyHeader | readSkipGap | readWaitSectorSync | readVerifySector | read
  | writeSkipGap => exact .inl rfl

theorem sentBit_pll (k : Fin 16) (b : Bool) (q : SeqState) (s : State) :
    (sentBit k b q s).pll = s.pll ∨ (sentBit k b q s).pll = { s.pll with phaseAdjust := 0, freqHist := 0#8 } := by
  unfold sentBit
  split
  · exact writeBoundary_pll (sentCell k b q s)
  · exact .inl rfl

/-- A written cell leaves the PLL's registers alone (41_pll.md R151). -/
theorem pllWriteNextBit_pll {bit : Bool} {limit : Nat} (h : pllWriteNextBit bit limit s = some t) : t.pll = s.pll := by
  have happ : (appendCell bit s).pll = s.pll := by rw [appendCell_eq]; rfl
  rw [(pllWriteNextBit_eq_some h).2, commitIfFull]
  split
  · exact (commit_clock _ _).2.trans happ
  · exact happ

theorem Steady.syncCell (h : Steady p s) {now : Nat} (hc : Machine.syncCell now s = some t) : Steady p t := by
  unfold Machine.syncCell at hc
  split at hc
  · obtain ⟨b, u, hu, rfl⟩ := codecReadCell_eq_some hc
    have hsteady := h.pllGetNextBit hu
    rcases (decodedBit_clock b u).2 with hpll | hpll
    · exact hsteady.of_pll hpll
    · exact hsteady.of_cleared hpll
  · obtain ⟨u, hu, rfl⟩ := codecWriteCell_eq_some hc
    have hsteady : Steady p u := h.of_pll (pllWriteNextBit_pll hu)
    rcases sentBit_pll s.codec.bitCount (nextCellBit s) s.seq.state u with hpll | hpll
    · exact hsteady.of_pll hpll
    · exact hsteady.of_cleared hpll

theorem Steady.sync (h : Steady p s) (now : Nat) : Steady p (sync now s) :=
  sync_keeps (fun _ _ hu _ _ _ hc => hu.syncCell hc) (fun _ hu _ _ => hu.of_pll rfl) h

/-! ### A window of negative length -/

/-- It ends before its start, and a transition is sought from its start on (41_pll.md R143). -/
theorem edgeInWindow_eq_none_of_neg (h : (s.pll.period : Int) + s.pll.phaseAdjust < 0) : edgeInWindow s = none := by
  refine edgeInWindow_eq_none.2 fun edge he => windowEnd_le_iff.2 ?_
  have hstart := nextTransition_le he
  omega

end Steady

/-- Settles O33: the clock's setting makes the PLL steady, every cell keeps it so, and a negative window holds no transition. -/
theorem negativeWindowIsEmptyAndNeedsAChangedCellLength : Obligations.NegativeWindowIsEmptyAndNeedsAChangedCellLength := by
  refine ⟨fun s t p h hexec => ?_, fun s p now h => ⟨h.sync now, h.windowOk⟩,
    fun s limit hneg => ⟨fun hlt => ?_, fun hle => ?_⟩⟩
  · rw [exec_pllSetClock] at hexec
    rw [← Host.Outcome.next.inj hexec]
    exact (Steady.setClock p h).of_pll rfl
  · exact exec_pllGetNextBit_suspend (lt_windowEnd_iff.2 hlt)
  · have hcursor : cellCursor s = if s.cfg.negativeWindow = .hold then s.cur.windowStart else windowEnd s := by
      simp only [cellCursor, Pll.windowOk_eq_false, hneg, true_and]
    rw [exec_pllGetNextBit_zero (windowEnd_le_iff.2 hle) (edgeInWindow_eq_none_of_neg hneg), hcursor]
    cases s.cfg.negativeWindow <;> rfl

end Sys2Proof.Machine

/-! PROOF. Without jitter the PLL decides a 1 in every cell and keeps its period (41_pll.md R154). -/

namespace Sys2Proof.Machine

/-! ### A run of cells -/

/-- A cell decision touches no drive (20_memory.md R86). -/
theorem nextTransition_withPll_withCursors (s : State) (r : Pll) (c t : Nat) :
    nextTransition ((s.withPll r).withCursors c) t = nextTransition s t := rfl

theorem readCells_succ {n limit : Nat} {s t u : State} {b : Bool} {bs : List Bool} (hcell : pllGetNextBit limit s = some (b, t))
    (hrest : readCells n limit t = some (bs, u)) : readCells (n + 1) limit s = some (b :: bs, u) := by
  simp only [readCells, hcell, hrest]

/-- A cell without a phase correction whose transition stands `off` ticks after its start: `delta` is against the centre, which
is `p / 2` before its end (41_pll.md R142, R146). -/
theorem pllGetNextBit_at {s : State} {limit p off : Nat} (hperiod : s.pll.period = p) (hphase : s.pll.phaseAdjust = 0)
    (hoff : off < p) (hend : s.cur.windowStart + p ≤ limit)
    (hedge : nextTransition s s.cur.windowStart = some (s.cur.windowStart + off)) :
    ∃ t, pllGetNextBit limit s = some (true, t) ∧ t.pll = s.pll.correct s.cfg ((off : Int) - (p - p / 2 : Nat)) ∧
      t.cur.windowStart = s.cur.windowStart + p ∧ ∀ k, nextTransition t k = nextTransition s k := by
  have hwindow : windowEnd s = s.cur.windowStart + p := by
    unfold windowEnd
    omega
  have hdelta : edgeDelta s (s.cur.windowStart + off) = (off : Int) - (p - p / 2 : Nat) := by
    rw [edgeDelta, hwindow, hperiod]
    omega
  have hcell := pllGetNextBit_one (limit := limit) (by omega) (edgeInWindow_eq_some.2 ⟨hedge, by omega⟩)
  rw [hdelta, hwindow] at hcell
  exact ⟨_, hcell, rfl, rfl, nextTransition_withPll_withCursors s _ _⟩

/-- What every correction at one place in the cell keeps, a run of cells with their transitions at that place keeps: if it fixes
the period and leaves no phase correction, the cells tile the time by `p` and every one is a 1. -/
theorem readCells_ones {Q : Pll → Prop} {p off limit : Nat} (hoff : off < p)
    (hshape : ∀ r, Q r → r.period = p ∧ r.phaseAdjust = 0)
    (hkeep : ∀ r cfg, Q r → Q (r.correct cfg ((off : Int) - (p - p / 2 : Nat)))) :
    ∀ (n : Nat) (s : State), Q s.pll → s.cur.windowStart + n * p ≤ limit →
      (∀ k, k < n → nextTransition s (s.cur.windowStart + k * p) = some (s.cur.windowStart + k * p + off)) →
      ∃ t, readCells n limit s = some (List.replicate n true, t) ∧ Q t.pll ∧
        t.cur.windowStart = s.cur.windowStart + n * p := by
  intro n
  induction n with
  | zero => exact fun s hQ _ _ => ⟨s, rfl, hQ, by omega⟩
  | succ n ih =>
    intro s hQ hlimit hflux
    obtain ⟨hperiod, hphase⟩ := hshape _ hQ
    have htile : ∀ k, s.cur.windowStart + p + k * p = s.cur.windowStart + (k + 1) * p := fun k => by ring
    obtain ⟨t, hcell, hpll, hcur, hnext⟩ := pllGetNextBit_at (limit := limit) hperiod hphase hoff
      (by have := htile n; omega) (by simpa using hflux 0 (Nat.succ_pos n))
    obtain ⟨u, hrest, hQu, hend⟩ := ih t (hpll ▸ hkeep _ s.cfg hQ) (by rw [hcur, htile]; exact hlimit)
      (fun k hk => by rw [hcur, htile, hnext]; exact hflux (k + 1) (Nat.succ_lt_succ hk))
    exact ⟨u, readCells_succ hcell hrest, hQu, by rw [hend, hcur, htile]⟩

/-! ### The corrections of such a run -/

/-- A transition at the centre clears the correction and the history, and the nudge does not fire (41_pll.md R146 to R148). -/
theorem Pll.correct_zero (cfg : Config) (r : Pll) : r.correct cfg 0 = { r with phaseAdjust := 0, freqHist := 0#8 } := by
  simp [Pll.correct, truncDiv, freqStep]

/-- The PLL at a period of `p` ticks that a nudge of one tick's `delta` cannot move (41_pll.md R154, R156). -/
structure Locked (p : Nat) (r : Pll) : Prop where
  period : r.period = p
  phase : r.phaseAdjust = 0
  small : r.adjustBase < p
  bounds : r.minPeriod ≤ p ∧ p ≤ r.maxPeriod

/-- Such a nudge is `trunc(-adjust_base / p)`, which is 0 (41_pll.md R154). -/
theorem Locked.nudge {p : Nat} {r : Pll} (h : Locked p r) : r.nudge (-1) = 0 := by
  have hperiod := h.period
  have hsmall := h.small
  have hneg : (r.adjustBase : Int) * -1 = -(r.adjustBase : Int) := by ring
  rw [Pll.nudge, if_neg (by omega), hneg, truncDiv_neg, truncDiv_natCast, Nat.div_eq_of_lt (by omega)]
  rfl

/-- A transition one tick early keeps the lock. -/
theorem Locked.correct {p : Nat} {r : Pll} (h : Locked p r) (cfg : Config) : Locked p (r.correct cfg (-1)) where
  period := by
    obtain ⟨hmin, hmax⟩ := h.bounds
    simp only [Pll.correct, h.nudge, h.period, clamp_toNat]
    split_ifs <;> omega
  phase := rfl
  small := h.small
  bounds := h.bounds

/-- Settles O35: at the centre a correction changes nothing, one tick before it nothing but the history. -/
theorem pllIsStableWithoutJitter : Obligations.PllIsStableWithoutJitter := by
  intro s n limit p hperiod hp hphase hhist hlimit
  refine ⟨fun hflux => ?_, fun hsmall hmin hmax hflux => ?_⟩
  · refine readCells_ones (Q := (· = s.pll)) (off := p - p / 2) (by omega) ?_ ?_ n s rfl hlimit hflux
    · rintro r rfl
      exact ⟨hperiod, hphase⟩
    · rintro r cfg rfl
      rw [Int.sub_self, Pll.correct_zero, ← hphase, ← hhist]
  · have hearly : ((p - p / 2 - 1 : Nat) : Int) - (p - p / 2 : Nat) = -1 := by omega
    obtain ⟨t, hcells, hlock, hcur⟩ := readCells_ones (Q := Locked p) (off := p - p / 2 - 1) (by omega)
      (fun r h => ⟨h.period, h.phase⟩) (fun r cfg h => by rw [hearly]; exact h.correct cfg) n s
      ⟨hperiod, hphase, hsmall, hmin, hmax⟩ hlimit
      (fun k hk => by rw [hflux k hk, Nat.add_sub_assoc (by omega)])
    exact ⟨t, hcells, hlock.period, hlock.phase, hcur⟩

end Sys2Proof.Machine

/-! PROOF. The codec (42_codec.md): one read cell, one written cell, and the round trip of a byte's sixteen cells. -/

namespace Sys2Proof.Machine

/-! ### One read cell -/

theorem syncMatch_iff (r : Regs) (c : Codec) :
    syncMatch r c = true ↔ (c.dataReg = r.wdata ∧ c.clkReg = r.clk) ∨ (c.dataReg = r.clk ∧ c.clkReg = r.wdata) := by
  simp [syncMatch]

theorem pllGetNextBit_isSome {limit : Nat} {s : State} (h : windowEnd s ≤ limit) :
    ∃ b t, pllGetNextBit limit s = some (b, t) := by
  have hsome := mt (pllGetNextBit_eq_none limit s).1 (Nat.not_lt.2 h)
  obtain ⟨⟨b, t⟩, hbit⟩ := Option.ne_none_iff_exists'.1 hsome
  exact ⟨b, t, hbit⟩

theorem exec_codecReadCell_suspend {limit : Nat} {s : State} (h : limit < windowEnd s) :
    exec (.codecReadCell limit) s = .next (s.answer .suspend) := by
  simp only [exec, execCodecReadCell, (codecReadCell_eq_none limit s).2 h]

theorem exec_codecReadCell_done {limit : Nat} {s t : State} {b : Bool} (h : pllGetNextBit limit s = some (b, t)) :
    exec (.codecReadCell limit) s = .next ((decodedBit b t).answer .done) := by
  simp only [exec, execCodecReadCell, codecReadCell, h]

theorem decodedBit_of_match {b : Bool} {s : State} (h : syncMatch s.regs (s.codec.feed b) = true) :
    decodedBit b s = readBoundary true (markCell b s) := if_pos h

theorem decodedBit_of_boundary {b : Bool} {s : State} (h : ¬ syncMatch s.regs (s.codec.feed b) = true)
    (hlast : s.codec.bitCount = 15) : decodedBit b s = readBoundary false (fedCell b s) :=
  (if_neg h).trans (if_pos hlast)

theorem decodedBit_of_inside {b : Bool} {s : State} (h : ¬ syncMatch s.regs (s.codec.feed b) = true)
    (hlast : s.codec.bitCount ≠ 15) : decodedBit b s = fedCell b s :=
  (if_neg h).trans (if_neg hlast)

/-- The cell count wraps at the sixteenth cell (10_state.md R32). -/
theorem bitCount_succ (k : Fin 16) : k + 1 = if k = 15 then 0 else k + 1 := by
  split
  case isTrue h => rw [h]; rfl
  case isFalse => rfl

/-- Settles O36: a decided cell is the feeds, and then the mark's boundary, the count's boundary, or none. -/
theorem codecReadCellFeedsAndCompares : Obligations.CodecReadCellFeedsAndCompares := by
  intro s limit e
  refine ⟨exec_codecReadCell_suspend, fun hle => ?_⟩
  obtain ⟨b, t, hbit⟩ := pllGetNextBit_isSome hle
  refine ⟨b, t, hbit, ?_⟩
  intro c matched synced plain
  have hfeed : t.codec.feed b = c := by rw [Codec.feed, bitCount_succ]; rfl
  have hmatched : syncMatch t.regs (t.codec.feed b) = true ↔ matched := by rw [hfeed, syncMatch_iff]
  have hsynced : markCell b t = synced := by rw [markCell, hfeed]; rfl
  have hplain : fedCell b t = plain := by rw [fedCell, hfeed]; rfl
  rw [exec_codecReadCell_done hbit]
  refine ⟨fun hm => ?_, fun hm hlast => ?_, fun hm hlast => ?_⟩
  · rw [decodedBit_of_match (hmatched.2 hm), hsynced]
    rfl
  · rw [decodedBit_of_boundary (mt hmatched.1 hm) hlast, hplain]
    rfl
  · rw [decodedBit_of_inside (mt hmatched.1 hm) hlast, hplain]
    rfl

/-! ### One written cell -/

/-- The bit of a cell, data cells first (42_codec.md R167, R169). -/
theorem cellBit_eq (fm : Bool) (t : Transmit) (k : Nat) :
    cellBit fm t k = if k % 2 = 1 then t.data.getLsbD (7 - k / 2) else clockBit fm t (7 - k / 2) := by
  rcases Nat.mod_two_eq_zero_or_one k with h | h <;> simp [cellBit, h]

theorem pllWriteNextBit_isSome (bit : Bool) {limit : Nat} {s : State} (h : s.cur.windowStart + s.pll.period ≤ limit) :
    ∃ t, pllWriteNextBit bit limit s = some t :=
  Option.ne_none_iff_exists'.1 (mt (pllWriteNextBit_eq_none bit limit s).1 (Nat.not_lt.2 h))

theorem exec_codecWriteCell_suspend {limit : Nat} {s : State} (h : limit < s.cur.windowStart + s.pll.period) :
    exec (.codecWriteCell limit) s = .next (s.answer .suspend) := by
  simp only [exec, execCodecWriteCell, (codecWriteCell_eq_none limit s).2 h]

theorem exec_codecWriteCell_done {limit : Nat} {s t : State} (h : pllWriteNextBit (nextCellBit s) limit s = some t) :
    exec (.codecWriteCell limit) s =
      .next ((sentBit s.codec.bitCount (nextCellBit s) s.seq.state t).answer .done) := by
  simp only [exec, execCodecWriteCell, codecWriteCell, h]

theorem sentBit_of_last {k : Fin 16} (b : Bool) (q : SeqState) (s : State) (hk : k = 15) :
    sentBit k b q s = writeBoundary (sentCell k b q s) := if_pos hk

theorem sentBit_of_inside {k : Fin 16} (b : Bool) (q : SeqState) (s : State) (hk : k ≠ 15) :
    sentBit k b q s = sentCell k b q s := if_neg hk

/-- Settles O37: the next cell's bit is the clock-bit rule's, and once placed it is counted, or completes its byte. -/
theorem codecWriteCellSendsTheNextBit : Obligations.CodecWriteCellSendsTheNextBit := by
  intro s limit e k i b
  have hbit : nextCellBit s = b := cellBit_eq s.regs.fm s.tx k
  refine ⟨exec_codecWriteCell_suspend, fun hle => ?_⟩
  obtain ⟨t, ht⟩ := pllWriteNextBit_isSome b hle
  refine ⟨t, ht, ?_⟩
  intro w
  have hlast : k = 15 ↔ s.codec.bitCount = 15 := Fin.val_eq_val s.codec.bitCount 15
  have hsent : sentCell s.codec.bitCount b s.seq.state t = w := rfl
  rw [exec_codecWriteCell_done (hbit ▸ ht), hbit]
  refine ⟨fun hk => ?_, fun hk => ?_⟩
  · rw [sentBit_of_last b _ t (hlast.1 hk), hsent]
    rfl
  · rw [sentBit_of_inside b _ t (mt hlast.2 hk), hsent]
    rfl

/-! ### The round trip (42_codec.md R170) -/

/-- `r'` is the register `r` after the `n` bits `f (n - 1)`, …, `f 0` have been shifted in. -/
def ShiftedIn (n : Nat) (f : Nat → Bool) (r r' : Byte) : Prop :=
  ∀ i, i < 8 → r'.getLsbD i = if i < n then f i else r.getLsbD (i - n)

theorem shiftIn8_getLsbD (r : Byte) (b : Bool) {i : Nat} (hi : i < 8) :
    (shiftIn8 r b).getLsbD i = if i = 0 then b else r.getLsbD (i - 1) := by
  cases i with
  | zero => cases b <;> simp [shiftIn8]
  | succ i =>
    have hbit : (if b then 1#8 else 0#8).getLsbD (i + 1) = false := by cases b <;> simp [BitVec.getLsbD_one]
    rw [shiftIn8, BitVec.getLsbD_or, hbit, Bool.or_false, BitVec.getLsbD_shiftLeft]
    simp [hi]

theorem ShiftedIn.zero (f : Nat → Bool) (r : Byte) : ShiftedIn 0 f r r := fun _ _ => rfl

/-- One more bit shifted in before the others stands above them. -/
theorem ShiftedIn.succ {n : Nat} {f g : Nat → Bool} {r r' : Byte} (h : ShiftedIn n f (shiftIn8 r (g n)) r')
    (hfg : ∀ i, i < n → f i = g i) : ShiftedIn (n + 1) g r r' := by
  intro i hi
  rw [h i hi]
  rcases lt_trichotomy i n with hlt | rfl | hgt
  · rw [if_pos hlt, if_pos (by omega), hfg i hlt]
  · rw [if_neg (lt_irrefl i), if_pos (Nat.lt_succ_self i), shiftIn8_getLsbD _ _ (by omega), if_pos (Nat.sub_self i)]
  · rw [if_neg (by omega), if_neg (by omega), shiftIn8_getLsbD _ _ (by omega), if_neg (by omega), Nat.sub_sub]

/-- Two cells fed in clock phase: the first goes to the clock register, the second to the data register (42_codec.md R161,
R162). -/
theorem Codec.feed_pair {c : Codec} (h : c.phase = false) (clk data : Bool) :
    ((c.feed clk).feed data).dataReg = shiftIn8 c.dataReg data ∧
    ((c.feed clk).feed data).clkReg = shiftIn8 c.clkReg clk ∧
    ((c.feed clk).feed data).phase = false ∧
    ((c.feed clk).feed data).bitCount = c.bitCount + 1 + 1 := by
  simp [Codec.feed, h]

/-- The last `n + 1` pairs of a byte: clock bit and data bit `n`, and then the pairs below with data bit `n` in `tx_prev`. -/
theorem sendCells_pair (fm : Bool) (t : Transmit) {n : Nat} (hn : n < 8) :
    sendCells fm (2 * (n + 1)) (16 - 2 * (n + 1)) t =
      clockBit fm t n :: t.data.getLsbD n ::
        sendCells fm (2 * n) (16 - 2 * n) { t with prev := t.data.getLsbD n } := by
  have hclk : cellBit fm t (16 - 2 * (n + 1)) = clockBit fm t n := by
    rw [cellBit, if_pos (by omega), show 7 - (16 - 2 * (n + 1)) / 2 = n by omega]
  have hdata : cellBit fm t (16 - 2 * (n + 1) + 1) = t.data.getLsbD n := by
    rw [cellBit, if_neg (by omega), show 7 - (16 - 2 * (n + 1) + 1) / 2 = n by omega]
  rw [show 2 * (n + 1) = 2 * n + 1 + 1 by ring] at hclk hdata ⊢
  rw [sendCells, sendCells, if_neg (by omega), if_pos (by omega), hclk, hdata,
    show 16 - (2 * n + 1 + 1) + 1 + 1 = 16 - 2 * n by omega]

/-- The clock bit sent with data bit `i` among the last `n` pairs of a byte: `tx_prev` holds the data bit above, or what it
held before these pairs (42_codec.md R169). -/
def pairClock (fm : Bool) (t : Transmit) (n i : Nat) : Bool :=
  clockBit fm { t with prev := if i + 1 = n then t.prev else t.data.getLsbD (i + 1) } i

theorem pairClock_top (fm : Bool) (t : Transmit) (n : Nat) : pairClock fm t (n + 1) n = clockBit fm t n := by
  rw [pairClock, if_pos rfl]

theorem pairClock_below (fm : Bool) (t : Transmit) {n i : Nat} (hi : i < n) :
    pairClock fm { t with prev := t.data.getLsbD n } n i = pairClock fm t (n + 1) i := by
  have hprev : (if i + 1 = n then t.data.getLsbD n else t.data.getLsbD (i + 1)) = t.data.getLsbD (i + 1) := by
    split
    case isTrue h => rw [h]
    case isFalse => rfl
  rw [pairClock, pairClock, if_neg (show i + 1 ≠ n + 1 by omega), hprev]

/-- What a decoder `c` in clock phase has become, `r`, after the last `n` pairs of the byte in `t`. -/
structure DecodesPairs (fm : Bool) (n : Nat) (t : Transmit) (c r : Codec) : Prop where
  data : ShiftedIn n t.data.getLsbD c.dataReg r.dataReg
  clock : ShiftedIn n (pairClock fm t n) c.clkReg r.clkReg
  phase : r.phase = false
  count : r.bitCount = c.bitCount + Fin.ofNat 16 (2 * n)

theorem sendCells_decodesPairs (fm : Bool) {n : Nat} (hn : n ≤ 8) (t : Transmit) {c : Codec} (hc : c.phase = false) :
    DecodesPairs fm n t c ((sendCells fm (2 * n) (16 - 2 * n) t).foldl Codec.feed c) := by
  induction n generalizing t c with
  | zero => exact ⟨.zero _ _, .zero _ _, hc, (add_zero _).symm⟩
  | succ n ih =>
    obtain ⟨hdata, hclk, hphase, hcount⟩ := Codec.feed_pair hc (clockBit fm t n) (t.data.getLsbD n)
    have hrest := ih (by omega) { t with prev := t.data.getLsbD n } hphase
    rw [sendCells_pair fm t (by omega)]
    exact
      { data := (hdata ▸ hrest.data).succ fun _ _ => rfl
        clock := by
          refine ShiftedIn.succ ?_ fun i hi => pairClock_below fm t hi
          rw [pairClock_top]
          exact hclk ▸ hrest.clock
        phase := hrest.phase
        count := by
          rw [List.foldl_cons, List.foldl_cons, hrest.count, hcount]
          simp only [Fin.ext_iff, Fin.val_add, Fin.val_ofNat, Fin.val_one]
          omega }

/-- Settles O38: the sixteen cells are the eight pairs, which fill both registers. -/
theorem sentByteDecodesBack : Obligations.SentByteDecodesBack := by
  intro fm t c hc r
  have hr : DecodesPairs fm 8 t c r := sendCells_decodesPairs fm (n := 8) le_rfl t hc
  refine ⟨BitVec.eq_of_getLsbD_eq fun i hi => ?_, hr.phase, ?_, fun i hi => ?_⟩
  · rw [hr.data i hi, if_pos hi]
  · exact hr.count.trans (add_zero _)
  · rw [hr.clock i hi, if_pos hi, pairClock, clockBit]
    simp only [Nat.reduceEqDiff]

end Sys2Proof.Machine

/-! PROOF. The driving loop (43_sequencer.md R180, R181): its turns, and one `Sync` after another. -/

namespace Sys2Proof.Machine

/-- A cell that suspends ends the loop (43_sequencer.md R180). -/
theorem sync_of_suspend {now : Nat} {s : State} (hrun : ¬ (s.seq.state = .idle ∨ s.pll.period = 0))
    (h : syncCell now s = none) : sync now s = s := by
  obtain ⟨fuel, hturn⟩ := sync_eq_turn now s
  rw [hturn, syncLoop, if_neg hrun, h]
  exact ite_self s

/-- An operation of the consumer or the reset port that no build refuses answers at every tick not before `last_sync`. -/
theorem exec_external_of_le {i : Instr} {s : State} (hx : i.external = true)
    (hi : ¬ (readsHead i = true ∧ s.cfg.readHead = .refuse)) (hs : s.cur.lastSync ≤ s.now) :
    exec i s = .next (ownPart i (sync s.now s)) := by
  rw [exec_external_eq hx, if_neg hi, afterSync_of_le hs]

/-- Settles O47: the loop's three outcomes at a state, and the cell by the class of the state. -/
theorem syncIsTheDrivingLoop : Obligations.SyncIsTheDrivingLoop := by
  refine ⟨fun s hs => exec_external_of_le rfl (by simp [readsHead]) hs, fun s now hc => ⟨sync_of_le, sync_of_stalled, ?_⟩⟩
  intro hlt hidle hperiod
  have hrun : ¬ (s.seq.state = .idle ∨ s.pll.period = 0) := not_or.2 ⟨hidle, hperiod⟩
  refine ⟨fun hread => ?_, fun hwrite => ?_⟩
  · have hcell : syncCell now s = codecReadCell now s := if_pos hread
    rw [← hcell]
    exact ⟨sync_of_suspend hrun, fun t => sync_of_cell hc hlt hrun⟩
  · have hcell : syncCell now s = codecWriteCell now s := if_neg (Bool.not_eq_true _ ▸ hwrite)
    rw [← hcell]
    exact ⟨sync_of_suspend hrun, fun t => sync_of_cell hc hlt hrun⟩

/-- Settles O49: both laws are the rule for a `Sync` on the way. -/
theorem syncIsIdempotentAndComposes : Obligations.SyncIsIdempotentAndComposes :=
  fun _ a _ hc _ hab => ⟨sync_sync hc (le_refl a), sync_sync hc hab⟩

end Sys2Proof.Machine

/-! PROOF. What a completed byte does in each state (43_sequencer.md R189 to R203). -/

namespace Sys2Proof.Machine

/-! ### The boundary of each state (43_sequencer.md R205) -/

section Boundaries

variable {s : State} {synced : Bool}

theorem readBoundary_of_readWaitHeaderSync (hq : s.seq.state = .readWaitHeaderSync) :
    readBoundary synced s = waitHeaderBoundary synced s := by rw [readBoundary, hq]

theorem readBoundary_of_readVerifyHeader (hq : s.seq.state = .readVerifyHeader) :
    readBoundary synced s = verifyHeaderBoundary synced s := by rw [readBoundary, hq]

theorem readBoundary_of_readSkipGap (hq : s.seq.state = .readSkipGap) :
    readBoundary synced s = readSkipGapBoundary s := by rw [readBoundary, hq]

theorem readBoundary_of_writeSkipGap (hq : s.seq.state = .writeSkipGap) :
    readBoundary synced s = writeSkipGapBoundary s := by rw [readBoundary, hq]

theorem readBoundary_of_readWaitSectorSync (hq : s.seq.state = .readWaitSectorSync) :
    readBoundary synced s = waitSectorBoundary synced s := by rw [readBoundary, hq]

theorem readBoundary_of_readVerifySector (hq : s.seq.state = .readVerifySector) :
    readBoundary synced s = verifySectorBoundary s := by rw [readBoundary, hq]

theorem writeBoundary_of_writeSectorSync (hq : s.seq.state = .writeSectorSync) :
    writeBoundary s = writeSyncBoundary s := by rw [writeBoundary, hq]

theorem writeBoundary_of_writeSector (hq : s.seq.state = .writeSector) :
    writeBoundary s = writeSectorBoundary s := by rw [writeBoundary, hq]

theorem writeBoundary_of_writeCrc (hq : s.seq.state = .writeCrc) :
    writeBoundary s = writeCrcBoundary s := by rw [writeBoundary, hq]

theorem writeBoundary_of_format (hq : s.seq.state = .format) : writeBoundary s = latchTx s := by rw [writeBoundary, hq]

end Boundaries

/-! ### The number of the byte (10_state.md R31) -/

/-- The boundary of byte `n + 1` is the one that finds `n` counted. -/
theorem byteNumber_eq_iff {s : State} {n : Nat} (hn : n + 1 < 65536) :
    s.byteNumber = n + 1 ↔ s.seq.byteCount = BitVec.ofNat 16 n := by
  have hnumber : s.byteNumber = (BitVec.ofNat 16 n + 1#16).toNat ↔ s.seq.byteCount = BitVec.ofNat 16 n :=
    BitVec.toNat_inj.trans (BitVec.add_left_inj _)
  have hsucc : (BitVec.ofNat 16 n + 1#16).toNat = n + 1 := by
    rw [BitVec.ofNat_add_ofNat, BitVec.toNat_ofNat]
    exact Nat.mod_eq_of_lt hn
  rwa [hsucc] at hnumber

/-- Short of the word's end the number is one past the count. -/
theorem byteNumber_eq_succ {s : State} (h : s.seq.byteCount.toNat < 65535) : s.byteNumber = s.seq.byteCount.toNat + 1 :=
  (byteNumber_eq_iff (by omega)).2 (by simp)

theorem sectorSize_eq (r : Regs) : r.sectorSize = 128 * 2 ^ (r.cmd1.extractLsb' 5 2).toNat := Nat.shiftLeft_eq _ _

/-! ### What a latch and the end of a write change -/

/-- The clock half is sent as it stands exactly for the mark pair (42_codec.md R168). -/
theorem markPair_eq_decide (d c : Byte) : (d == markData && c == markClock) = decide (d = 0xA1#8 ∧ c = 0x0A#8) :=
  (Bool.decide_and _ _).symm

/-- `LatchTx()` by its fields (42_codec.md R168). -/
theorem latchTx_state (s : State) :
    latchTx s =
      { s with
        tx := { s.tx with
          data := s.regs.wdata, clk := s.regs.clk, verb := decide (s.regs.wdata = 0xA1#8 ∧ s.regs.clk = 0x0A#8) }
        regs := { s.regs with stat0 := s.regs.stat0 ||| 0x82#8 } } := by
  rw [latchTx_eq, markPair_eq_decide]
  rfl

/-- From no flag set, the latch sets BYTE and DREQ alone. -/
theorem latchTx_of_cleared {s : State} (h : s.regs.stat0 = 0x00#8) :
    latchTx s =
      { s with
        tx := { s.tx with
          data := s.regs.wdata, clk := s.regs.clk, verb := decide (s.regs.wdata = 0xA1#8 ∧ s.regs.clk = 0x0A#8) }
        regs := { s.regs with stat0 := 0x82#8 } } := by
  rw [latchTx_state, h]
  rfl

/-- A commit changes the buffer, the drives and the trace of calls; nothing else. -/
theorem commit_frame (t : Nat) (s : State) :
    commit t s =
      { s with wbuf := (commit t s).wbuf, drives := (commit t s).drives, fluxCalls := (commit t s).fluxCalls } := by
  rcases commit_cases t s with ⟨-, h⟩ | ⟨a, -, -, h⟩ <;> rw [h]
  rfl

theorem stopWriting_frame (t : Nat) (s : State) :
    stopWriting t s =
      { s with
        wbuf := (stopWriting t s).wbuf, drives := (stopWriting t s).drives, fluxCalls := (stopWriting t s).fluxCalls } :=
  congrArg (State.withWbuf · _) (commit_frame t s)

/-! ### Read boundaries -/

/-- Settles O40: the search's boundary is the seed on a match, and nothing without one. -/
theorem headerSearchEndsAtAMark : Obligations.HeaderSearchEndsAtAMark := fun _ hq =>
  ⟨readBoundary_of_readWaitHeaderSync hq, readBoundary_of_readWaitHeaderSync hq⟩

/-- The table of header checks as propositions (43_sequencer.md R190). -/
def HeaderByteMatches (synced : Bool) (s : State) (n : Nat) : Prop :=
  if n ≤ 2 then synced = true
  else if n = 3 then s.codec.dataReg = 0xFE#8
  else if n = 4 then s.codec.dataReg = s.regs.trck
  else if n = 5 then s.codec.dataReg.getLsbD 0 = s.regs.cmd1.getLsbD 4
  else if n = 6 then s.codec.dataReg = s.regs.sect
  else if n = 7 then s.codec.dataReg.extractLsb' 0 2 = s.regs.cmd1.extractLsb' 5 2
  else if n = 8 then True
  else s.codec.crc = 0#16

/-- The model's check of a header byte is that table, on the byte numbers that occur. -/
theorem headerByteOk_iff (synced : Bool) (s : State) {n : Nat} (h1 : 1 ≤ n) (h9 : n ≤ 9) :
    headerByteOk synced s n = true ↔ HeaderByteMatches synced s n := by
  match n with
  | 1 | 2 => exact Iff.rfl
  | 3 | 4 | 5 | 6 | 7 | 9 => exact beq_iff_eq
  | 8 => exact iff_of_true rfl trivial

/-- Settles O41: the three outcomes of the boundary, the check read off the table. -/
theorem headerVerificationChecksEachByte : Obligations.HeaderVerificationChecksEachByte := by
  intro s synced hq hcount n d ok
  have hn : s.byteNumber = n := byteNumber_eq_succ (by omega)
  have hok : headerByteOk synced s n = true ↔ ok := headerByteOk_iff synced s (Nat.succ_pos _) (Nat.succ_le_succ hcount)
  rw [readBoundary_of_readVerifyHeader hq, verifyHeaderBoundary, hn]
  refine ⟨fun hbad => ?_, fun hgood hmore => ?_, fun hgood hlast => ?_⟩
  · rw [if_pos (Bool.eq_false_iff.2 (mt hok.1 hbad))]
    rfl
  · rw [if_neg (Bool.not_eq_false _ ▸ hok.2 hgood), if_neg hmore]
    rfl
  · rw [if_neg (Bool.not_eq_false _ ▸ hok.2 hgood), if_pos hlast]
    rfl

/-- Settles O42: each gap counts to its length, and then is left. -/
theorem gapsAreCountedInBytes : Obligations.GapsAreCountedInBytes := by
  intro s synced counted
  refine ⟨fun hq => ?_, fun hq => ?_⟩
  · have hlast : s.byteNumber = 27 ↔ s.seq.byteCount = 26#16 := byteNumber_eq_iff (by decide)
    rw [readBoundary_of_readSkipGap hq]
    exact ⟨fun h => if_pos (hlast.2 h), fun h => if_neg (mt hlast.1 h)⟩
  · have hlast : s.byteNumber = 22 ↔ s.seq.byteCount = 21#16 := byteNumber_eq_iff (by decide)
    rw [readBoundary_of_writeSkipGap hq]
    exact ⟨fun h => if_pos (hlast.2 h), fun h => if_neg (mt hlast.1 h)⟩

/-- Settles O43: a mark or the time-out ends the search, and byte 3 the check of the data mark. -/
theorem sectorSearchTimesOutOrFindsTheDataMark : Obligations.SectorSearchTimesOutOrFindsTheDataMark := by
  intro s counted missed
  refine ⟨fun hq => ?_, fun hq synced => ?_⟩
  · have hlast : s.byteNumber = 42 ↔ s.seq.byteCount = 41#16 := byteNumber_eq_iff (by decide)
    rw [readBoundary_of_readWaitSectorSync hq, readBoundary_of_readWaitSectorSync hq]
    exact ⟨rfl, fun h => if_pos (hlast.2 h), fun h => if_neg (mt hlast.1 h)⟩
  · have hlast : s.byteNumber = 3 ↔ s.seq.byteCount = 2#16 := byteNumber_eq_iff (by decide)
    rw [readBoundary_of_readVerifySector hq]
    refine ⟨fun h hmark => ?_, fun h hmark => ?_, fun h => if_neg (mt hlast.1 h)⟩
    · exact (if_pos (hlast.2 h)).trans (if_pos hmark)
    · exact (if_pos (hlast.2 h)).trans (if_neg hmark)

/-! ### READ (43_sequencer.md R197 to R199) -/

/-- A read's end, by overrun or completion, latches the CRC error and sets FREE (10_state.md R43, R44). -/
theorem latchCrcError_setFree (s : State) :
    s.latchCrcError.setFree =
      { s with
        regs := { s.regs with stat0 := s.regs.stat0 ||| (if s.codec.crc ≠ 0#16 then 0x0C#8 else 0x08#8) }
        conditions := s.conditions ++ (if s.codec.crc ≠ 0#16 then [.crcError] else []) } := by
  by_cases hbad : s.codec.crc ≠ 0#16
  · have hflags : (s.regs.stat0 ||| maskCRCERR) ||| maskFREE = s.regs.stat0 ||| 0x0C#8 := BitVec.or_assoc _ _ _
    rw [State.latchCrcError, if_pos hbad, if_pos hbad, if_pos hbad, ← hflags]
    rfl
  · rw [State.latchCrcError, if_neg hbad, if_neg hbad, if_neg hbad, List.append_nil]
    rfl

/-- Settles O44: the overrun test comes first, then the end of the transfer, and the last data byte bounds the publication. -/
theorem readPublishesOverrunsOrCompletes : Obligations.ReadPublishesOverrunsOrCompletes := by
  intro s synced hq hcount n size bad counted
  have hn : s.byteNumber = n := byteNumber_eq_succ (by omega)
  have hsize : s.regs.sectorSize = size := sectorSize_eq s.regs
  have hseq : s.countByte = { s with seq := counted } :=
    congrArg (fun q => s.withSeq { state := q, byteCount := s.seq.byteCount + 1 }) hq
  rw [readBoundary_of_read hq, readBoundaryRead, hn, hsize]
  refine ⟨fun hle hdreq habort => ?_, fun hle hfree => ?_, fun hcrc => ?_, fun hend => ?_⟩
  · rw [if_pos ⟨hle, hdreq, habort⟩, overrunAbort, latchCrcError_setFree]
    rfl
  · have hover : ¬ (n ≤ size ∧ s.regs.dreq = true ∧ s.cfg.readOverrun = .abort) := by
      rintro ⟨-, hdreq, habort⟩
      rcases hfree with hno | hproceed
      · exact absurd (hno.symm.trans hdreq) Bool.false_ne_true
      · rw [habort] at hproceed
        cases hproceed
    rw [if_neg hover, if_neg (by omega), takeByte, hn, hsize, if_pos hle, hseq]
    rfl
  · rw [if_neg (by omega), if_neg (by omega), takeByte_of_past (by omega), hseq]
  · rw [if_neg (by omega), if_pos hend, takeByte_of_past (by omega), State.countByte_eq, readComplete_withSeq, readComplete,
      latchCrcError_setFree]
    rfl

/-! ### Write boundaries -/

/-- Settles O45: each state's boundary by the byte's number, with the latch of R168. -/
theorem writeBoundariesSupplyTheNextByte : Obligations.WriteBoundariesSupplyTheNextByte := by
  intro s counted latched asked size
  refine ⟨fun hq => ?_, fun hq hcount => ?_, fun hq => ?_⟩
  · have hlast : s.byteNumber = 12 ↔ s.seq.byteCount = 11#16 := byteNumber_eq_iff (by decide)
    rw [writeBoundary_of_writeSectorSync hq]
    refine ⟨fun h => ?_, fun h => if_neg (mt hlast.1 h)⟩
    exact (if_pos (hlast.2 h)).trans (latchTx_state _)
  · have hn : s.byteNumber = s.seq.byteCount.toNat + 1 := byteNumber_eq_succ (by omega)
    rw [writeBoundary_of_writeSector hq, writeSectorBoundary, hn, sectorSize_eq]
    refine ⟨fun h => if_pos h, fun h => ?_⟩
    exact (if_neg (Nat.not_le.2 h)).trans (latchTx_state _)
  · rw [writeBoundary_of_format hq]
    exact latchTx_state s

/-- The end of a write, on the state whose write has been stopped (43_sequencer.md R202). -/
theorem writeComplete_eq (s : State) :
    writeComplete s =
      { stopWriting s.cur.windowStart s with
        regs := { s.regs with stat0 := s.regs.stat0 ||| 0x08#8 }
        cur := { lastSync := s.cur.windowStart, windowStart := s.cur.windowStart }
        pll := { s.pll with phaseAdjust := 0, freqHist := 0#8 }
        seq := { state := .readWaitHeaderSync, byteCount := 0#16 }
        codec := { s.codec with bitCount := 0, phase := false } } := by
  rw [writeComplete, stopWriting_frame]
  rfl

/-- Settles O46: byte 1 is the CRC's low byte, byte 2 the end. -/
theorem writeCrcSendsTheLowByteThenEnds : Obligations.WriteCrcSendsTheLowByteThenEnds := by
  intro s hq
  have hfirst : s.byteNumber = 1 ↔ s.seq.byteCount = 0#16 := byteNumber_eq_iff (by decide)
  rw [writeBoundary_of_writeCrc hq, writeCrcBoundary]
  refine ⟨fun h => ?_, fun h => ?_⟩
  · rw [if_pos (hfirst.2 h), State.countByte, h]
    rfl
  · rw [if_neg (mt hfirst.1 (by rw [h]; decide)), writeComplete_eq]

end Sys2Proof.Machine

/-! PROOF. A cell changes the sequencer's state only as the transition table says (43_sequencer.md R204). -/

namespace Sys2Proof.Machine

/-- The state stays, or the change is a row of the table. -/
def CellMove (p q : SeqState) : Prop := q = p ∨ (p, q) ∈ cellTransitions

theorem CellMove.refl (p : SeqState) : CellMove p p := .inl rfl

/-- A state is entered along a row of the table. -/
theorem CellMove.to {p r : SeqState} (q : SeqState) (h : r = q) (hrow : (p, q) ∈ cellTransitions) : CellMove p r :=
  .inr (h ▸ hrow)

theorem takeByte_state (s : State) : (takeByte s).seq.state = s.seq.state := by
  unfold takeByte
  split <;> rfl

/-- READ stays, restarts, or completes (43_sequencer.md R197 to R199). -/
theorem readBoundaryRead_move {s : State} (hq : s.seq.state = .read) : CellMove .read (readBoundaryRead s).seq.state := by
  unfold readBoundaryRead
  split
  · exact .to .readWaitHeaderSync rfl (by decide)
  · split
    · exact .to .idle rfl (by decide)
    · exact .inl ((takeByte_state s).trans hq)

/-- A good header leads to a gap, by the mode, or back to the search (43_sequencer.md R190). -/
theorem afterHeader_move (mode : BitVec 2) : CellMove .readVerifyHeader (afterHeader mode) := by
  unfold afterHeader
  split
  · exact .to .writeSkipGap rfl (by decide)
  · split
    · exact .to .readSkipGap rfl (by decide)
    · exact .to .readWaitHeaderSync rfl (by decide)

theorem readBoundary_move (synced : Bool) (s : State) : CellMove s.seq.state (readBoundary synced s).seq.state := by
  cases hq : s.seq.state with
  | readWaitHeaderSync =>
    rw [readBoundary_of_readWaitHeaderSync hq, waitHeaderBoundary]
    split
    · exact .to .readVerifyHeader rfl (by decide)
    · exact .inl hq
  | readVerifyHeader =>
    rw [readBoundary_of_readVerifyHeader hq, verifyHeaderBoundary]
    split
    · exact .to .readWaitHeaderSync rfl (by decide)
    · split
      · exact afterHeader_move _
      · exact .inl hq
  | readSkipGap =>
    rw [readBoundary_of_readSkipGap hq, readSkipGapBoundary]
    split
    · exact .to .readWaitSectorSync rfl (by decide)
    · exact .inl hq
  | writeSkipGap =>
    rw [readBoundary_of_writeSkipGap hq, writeSkipGapBoundary]
    split
    · exact .to .writeSectorSync rfl (by decide)
    · exact .inl hq
  | readWaitSectorSync =>
    rw [readBoundary_of_readWaitSectorSync hq, waitSectorBoundary]
    split
    · exact .to .readVerifySector rfl (by decide)
    · split
      · exact .to .readWaitHeaderSync rfl (by decide)
      · exact .inl hq
  | readVerifySector =>
    rw [readBoundary_of_readVerifySector hq, verifySectorBoundary]
    split
    · split
      · exact .to .read rfl (by decide)
      · exact .to .readWaitHeaderSync rfl (by decide)
    · exact .inl hq
  | read =>
    rw [readBoundary_of_read hq]
    exact readBoundaryRead_move hq
  | idle | writeSectorSync | writeSector | writeCrc | format =>
    rw [readBoundary, hq]
    exact .inl hq

theorem writeBoundary_move (s : State) : CellMove s.seq.state (writeBoundary s).seq.state := by
  cases hq : s.seq.state with
  | writeSectorSync =>
    rw [writeBoundary_of_writeSectorSync hq, writeSyncBoundary]
    split
    · exact .to .writeSector rfl (by decide)
    · exact .inl hq
  | writeSector =>
    rw [writeBoundary_of_writeSector hq, writeSectorBoundary]
    split
    · exact .to .writeCrc rfl (by decide)
    · exact .inl hq
  | writeCrc =>
    rw [writeBoundary_of_writeCrc hq, writeCrcBoundary]
    split
    · exact .inl hq
    · exact .to .readWaitHeaderSync rfl (by decide)
  | format =>
    rw [writeBoundary_of_format hq]
    exact .inl hq
  | idle | readWaitHeaderSync | readVerifyHeader | readSkipGap | readWaitSectorSync | readVerifySector | read
  | writeSkipGap =>
    rw [writeBoundary, hq]
    exact .inl hq

theorem decodedBit_move (b : Bool) (s : State) : CellMove s.seq.state (decodedBit b s).seq.state := by
  unfold decodedBit
  split
  · exact readBoundary_move true (markCell b s)
  · split
    · exact readBoundary_move false (fedCell b s)
    · exact .refl _

theorem sentBit_move (k : Fin 16) (b : Bool) (q : SeqState) (s : State) :
    CellMove s.seq.state (sentBit k b q s).seq.state := by
  unfold sentBit
  split
  · exact writeBoundary_move (sentCell k b q s)
  · exact .refl _

/-- A cell placed by the PLL leaves the sequencer alone. -/
theorem pllWriteNextBit_seq {bit : Bool} {limit : Nat} {s t : State} (h : pllWriteNextBit bit limit s = some t) :
    t.seq = s.seq := by
  have happ : (appendCell bit s).seq = s.seq := by cases bit <;> rfl
  rw [(pllWriteNextBit_eq_some h).2, commitIfFull]
  split
  · rw [commit_frame]
    exact happ
  · exact happ

theorem codecReadCell_move {limit : Nat} {s t : State} (h : codecReadCell limit s = some t) :
    CellMove s.seq.state t.seq.state := by
  obtain ⟨b, u, hu, rfl⟩ := codecReadCell_eq_some h
  rw [← (pllGetNextBit_regs_seq hu).2]
  exact decodedBit_move b u

theorem codecWriteCell_move {limit : Nat} {s t : State} (h : codecWriteCell limit s = some t) :
    CellMove s.seq.state t.seq.state := by
  obtain ⟨u, hu, rfl⟩ := codecWriteCell_eq_some h
  rw [← pllWriteNextBit_seq hu]
  exact sentBit_move _ _ _ u

/-- Settles O51: a suspended cell changes nothing, a completed one ends in at most one boundary. -/
theorem cellsMakeOnlyTheTransitionsOfTheTable : Obligations.CellsMakeOnlyTheTransitionsOfTheTable := by
  intro s t limit h
  rcases h with h | h <;> rw [exec_engine rfl h]
  · exact map_getD_keeps (P := fun u => CellMove s.seq.state u.seq.state)
      (fun u hc => show CellMove _ u.seq.state from codecReadCell_move hc) (.refl _)
  · exact map_getD_keeps (P := fun u => CellMove s.seq.state u.seq.state)
      (fun u hc => show CellMove _ u.seq.state from codecWriteCell_move hc) (.refl _)

end Sys2Proof.Machine

/-! PROOF. The commands (43_sequencer.md R183 to R188): each one's own part on the flushed state, after its `Sync`. -/

namespace Sys2Proof.Machine

theorem flushWrite_eq_ite (s : State) :
    flushWrite s = if s.wbuf.start = none then s else stopWriting s.cur.windowStart s := by
  rcases flushWrite_cases s with ⟨hstart, h⟩ | ⟨hstart, h⟩
  · rw [h, if_pos hstart]
  · rw [h, if_neg (Option.isSome_iff_ne_none.1 hstart)]

/-- CMD_IDLE's own part on the flushed state (43_sequencer.md R183, R184). -/
theorem idleCommand_eq (v : Byte) (s : State) :
    idleCommand v s =
      { flushWrite s with
        regs := { (flushWrite s).regs with cmd0 := v, stat0 := ((flushWrite s).regs.stat0 &&& 0x04#8) ||| 0x08#8 }
        seq := { state := .idle, byteCount := 0#16 }
        cur := { lastSync := s.now, windowStart := s.now }
        pll := { (flushWrite s).pll with phaseAdjust := 0, freqHist := 0#8 }
        codec := { (flushWrite s).codec with bitCount := 0, phase := false } } := by
  rw [idleCommand, commandStart_eq]
  rfl

/-- The own part of the three commands that search (43_sequencer.md R183, R185 to R187). -/
theorem searchCommand_eq (v : Byte) (s : State) :
    searchCommand v s =
      { flushWrite s with
        regs := { (flushWrite s).regs with cmd0 := v, stat0 := 0x00#8 }
        seq := { state := .readWaitHeaderSync, byteCount := 0#16 }
        cur := { lastSync := s.now, windowStart := s.now }
        pll := { (flushWrite s).pll with phaseAdjust := 0, freqHist := 0#8 }
        codec := { (flushWrite s).codec with bitCount := 0, phase := false } } := by
  rw [searchCommand, commandStart_eq]
  rfl

/-- CMD_FORMAT's own part on the flushed state (43_sequencer.md R183, R188). -/
theorem formatCommand_eq (v : Byte) (s : State) :
    formatCommand v s =
      { flushWrite s with
        regs := { (flushWrite s).regs with cmd0 := v, stat0 := 0x82#8 }
        seq := { state := .format, byteCount := 0#16 }
        cur := { lastSync := s.now, windowStart := s.now }
        pll := { (flushWrite s).pll with phaseAdjust := 0, freqHist := 0#8 }
        codec := { (flushWrite s).codec with bitCount := 0, phase := false }
        tx := { data := (flushWrite s).regs.wdata, clk := (flushWrite s).regs.clk,
                verb := decide ((flushWrite s).regs.wdata = 0xA1#8 ∧ (flushWrite s).regs.clk = 0x0A#8), prev := false }
        wbuf := { start := some s.now, ticks := [] } } := by
  have hnow : (flushWrite s).now = s.now := (flushWrite_ports s).now
  rw [formatCommand, latchTx_of_cleared rfl, commandStart_eq, ← hnow]
  rfl

/-- Settles O16: the own part of CMD_IDLE, at the tick of its `Sync`. -/
theorem idleCommandEndsWhatRuns : Obligations.IdleCommandEndsWhatRuns := by
  intro s v hs u f
  have hflush : flushWrite u = f := flushWrite_eq_ite u
  rw [exec_external_of_le rfl (by simp [readsHead]) hs, ownPart, idleCommand_eq, hflush, (sync_ports s.now s).now]
  rfl

/-- Settles O17: the three commands have one own part; a build that loops on read-head does not refuse it. -/
theorem searchCommandsStartTheHeaderSearch : Obligations.SearchCommandsStartTheHeaderSearch := by
  intro s v hs u f t
  have hflush : flushWrite u = f := flushWrite_eq_ite u
  have hown : (searchCommand v u).answer .nothing = t := by
    rw [searchCommand_eq, hflush, (sync_ports s.now s).now]
    rfl
  rw [← hown]
  refine ⟨?_, ?_, fun hloop => ?_⟩
  · exact exec_external_of_le (i := .cmdWriteSector v) rfl (by simp [readsHead]) hs
  · exact exec_external_of_le (i := .cmdReadSector v) rfl (by simp [readsHead]) hs
  · exact exec_external_of_le (i := .cmdReadHead v) rfl (by simp [hloop]) hs

/-- Settles O18: the own part of CMD_FORMAT, at the tick of its `Sync`. -/
theorem formatCommandStartsWritingAtOnce : Obligations.FormatCommandStartsWritingAtOnce := by
  intro s v hs u f
  have hflush : flushWrite u = f := flushWrite_eq_ite u
  rw [exec_external_of_le rfl (by simp [readsHead]) hs, ownPart, formatCommand_eq, hflush, (sync_ports s.now s).now]
  rfl

end Sys2Proof.Machine

/-! PROOF. The write-flux buffer's operations on their own (44_write_flux.md R231, R233, R234). -/

namespace Sys2Proof.Machine

theorem exec_wbufStart (t : Nat) (s : State) : exec (.wbufStart t) s = .next ((startWriting t s).answer .nothing) := rfl

theorem exec_wbufCommit (t : Nat) (s : State) : exec (.wbufCommit t) s = .next ((commit t s).answer .nothing) := rfl

theorem exec_wbufStop (t : Nat) (s : State) : exec (.wbufStop t) s = .next ((stopWriting t s).answer .nothing) := rfl

/-- No call is made with no write in progress, or for an interval of no length (44_write_flux.md R233). -/
theorem commit_of_no_call {t : Nat} {s : State} (h : s.wbuf.start = none ∨ s.wbuf.start = some t) : commit t s = s := by
  rcases commit_cases t s with ⟨-, hc⟩ | ⟨a, ha, hne, -⟩
  · exact hc
  · rcases h with h | h <;> rw [ha] at h <;> cases h
    exact absurd rfl hne

/-- Else one call hands the interval over. -/
theorem commit_of_call {a t : Nat} {s : State} (h : s.wbuf.start = some a) (hne : a ≠ t) :
    commit t s = (s.writeFlux a t s.wbuf.ticks).withWbuf { start := some t, ticks := [] } := by
  rcases commit_cases t s with ⟨hno | hsame, -⟩ | ⟨b, hb, -, hc⟩
  · rw [h] at hno
    cases hno
  · rw [h] at hsame
    exact absurd (Option.some.inj hsame) hne
  · cases hb.symm.trans h
    exact hc

/-- Settles O22: the operation is its update of the buffer and the phase correction. -/
theorem wbufStartOpensTheInterval : Obligations.WbufStartOpensTheInterval := by
  intro s t
  rw [exec_wbufStart, startWriting_eq]
  rfl

/-- Settles O23: a stop is a commit and then no write in progress. -/
theorem commitAndStopHandOverTheInterval : Obligations.CommitAndStopHandOverTheInterval := by
  intro s t
  rw [exec_wbufCommit, exec_wbufStop, stopWriting]
  refine ⟨fun h => ?_, fun a h hne => ?_⟩
  · rw [commit_of_no_call h]
    exact ⟨rfl, rfl⟩
  · rw [commit_of_call h hne]
    exact ⟨rfl, rfl⟩

end Sys2Proof.Machine

/-! PROOF. A write handed over in two calls leaves the medium that one call leaves (44_write_flux.md R237). -/

namespace Sys2Proof.Machine

/-! ### A medium that does not repeat -/

/-- What the second part writes lies past the first, so the second call removes nothing of the first's. -/
theorem Medium.write_split_holds {m : Medium} (hm : ∀ rev l, m ≠ .rotating rev l) {a b c : Nat} {k l : List Nat} (hab : a < b)
    (hbc : b < c) (hk : ∀ x ∈ k, a ≤ x ∧ x < b) (t : Nat) :
    ((m.write a b k).write b c l).Holds t ↔ (m.write a c (k ++ l)).Holds t := by
  have hm' : ∀ rev l, m.write a b k ≠ .rotating rev l := by
    cases m with
    | rotating rev l => exact absurd rfl (hm rev l)
    | linear l => exact fun _ _ => nofun
    | external id ws => exact fun _ _ => nofun
  have hfirst : t ∈ k → outside b c t = true := fun ht => outside_iff.2 (.inl (hk t ht).2)
  have hboth : outside a c t = true ↔ outside a b t = true ∧ outside b c t = true := by
    simp only [outside_iff]
    omega
  rw [Medium.write_holds hm', Medium.write_holds hm, Medium.write_holds hm, hboth, List.mem_append]
  tauto

/-! ### A rotating medium -/

/-- An image of the tick `r` of a revolution lies in `[a, e)`. -/
def ImageIn (rev r a e : Nat) : Prop := ∃ j, a ≤ r + j * rev ∧ r + j * rev < e

/-- Every revolution from `a` on holds an image. -/
theorem imageIn_of_rev_le {rev r : Nat} (hr : r < rev) {a e : Nat} (he : a + rev ≤ e) : ImageIn rev r a e := by
  obtain ⟨hle, hlt, j, hj⟩ := firstImage_spec hr a
  exact ⟨j, by omega, by omega⟩

theorem imageIn_split {rev r a b c : Nat} (hab : a ≤ b) (hbc : b ≤ c) :
    ImageIn rev r a c ↔ ImageIn rev r a b ∨ ImageIn rev r b c := by
  constructor
  · rintro ⟨j, hlo, hhi⟩
    rcases Nat.lt_or_ge (r + j * rev) b with hlt | hge
    · exact .inl ⟨j, hlo, hlt⟩
    · exact .inr ⟨j, hge, hhi⟩
  · rintro (⟨j, hlo, hhi⟩ | ⟨j, hlo, hhi⟩)
    · exact ⟨j, hlo, by omega⟩
    · exact ⟨j, by omega, hhi⟩

/-- A tick's next image, one revolution later, is the first that can lie in an interval that begins after the tick. -/
theorem not_imageIn_iff {rev x b c : Nat} (hxb : x < b) (hnext : b ≤ x + rev) :
    ¬ ImageIn rev (x % rev) b c ↔ c ≤ x + rev := by
  have hx := Nat.mod_add_div' x rev
  constructor
  · intro h
    by_contra hlt
    exact h ⟨x / rev + 1, by rw [Nat.succ_mul]; omega, by rw [Nat.succ_mul]; omega⟩
  · rintro hle ⟨j, hlo, hhi⟩
    have hafter : x / rev < j := Nat.lt_of_mul_lt_mul_right (a := rev) (by omega)
    have hbefore : j < x / rev + 1 := Nat.lt_of_mul_lt_mul_right (a := rev) (by rw [Nat.succ_mul]; omega)
    omega

/-- A valid call's effect on a tick of the revolution, for every length of interval: a new transition counts when none of its
images is overwritten later in the interval, what stood before when none of its images lies in it (20_memory.md R77). -/
theorem mem_rotatingWrite_iff {rev r : Nat} {l : List Nat} (hr : r < rev) (hlt : ∀ x ∈ l, x < rev) {a e : Nat} {new : List Nat}
    (hnew : ∀ x ∈ new, a ≤ x) :
    r ∈ rotatingWrite rev l a e new ↔
      (∃ x ∈ new, e ≤ x + rev ∧ x % rev = r) ∨ (r ∈ l ∧ ¬ ImageIn rev r a e) := by
  rw [mem_rotatingWrite hlt]
  split
  · refine or_congr_left (exists_congr fun x => and_congr_right fun hx => ?_)
    have := hnew x hx
    exact (and_iff_right (by omega)).symm
  · rw [or_iff_left]
    exact fun h => h.2 (imageIn_of_rev_le hr (by omega))

theorem mem_rotatingWrite_split {rev r : Nat} {l₀ : List Nat} (hr : r < rev) (hlt : ∀ x ∈ l₀, x < rev)
    (hrising : l₀.Pairwise (· < ·)) {a b c : Nat} {k l : List Nat} (hab : a < b) (hbc : b < c) (hk : ∀ x ∈ k, a ≤ x ∧ x < b)
    (hl : ∀ x ∈ l, b ≤ x ∧ x < c) :
    r ∈ rotatingWrite rev (rotatingWrite rev l₀ a b k) b c l ↔ r ∈ rotatingWrite rev l₀ a c (k ++ l) := by
  have hlt' : ∀ x ∈ rotatingWrite rev l₀ a b k, x < rev := (rotatingWrite_wf (by omega) hrising hlt a b k).2
  have hfirst : (∃ x ∈ k, b ≤ x + rev ∧ x % rev = r) ∧ ¬ ImageIn rev r b c ↔ ∃ x ∈ k, c ≤ x + rev ∧ x % rev = r := by
    constructor
    · rintro ⟨⟨x, hx, hnext, rfl⟩, himage⟩
      exact ⟨x, hx, (not_imageIn_iff (hk x hx).2 hnext).1 himage, rfl⟩
    · rintro ⟨x, hx, hnext, rfl⟩
      have hnext' : b ≤ x + rev := by omega
      exact ⟨⟨x, hx, hnext', rfl⟩, (not_imageIn_iff (hk x hx).2 hnext').2 hnext⟩
  have hnew : ∀ x ∈ k ++ l, a ≤ x := fun x hx =>
    (List.mem_append.1 hx).elim (fun hx => (hk x hx).1) (fun hx => (Nat.le_of_lt hab).trans (hl x hx).1)
  rw [mem_rotatingWrite_iff hr hlt' (fun x hx => (hl x hx).1), mem_rotatingWrite_iff hr hlt (fun x hx => (hk x hx).1),
    mem_rotatingWrite_iff hr hlt hnew, imageIn_split (Nat.le_of_lt hab) (Nat.le_of_lt hbc), or_and_right, hfirst]
  simp only [List.mem_append, or_and_right, exists_or, not_or, and_assoc, or_assoc]
  exact or_left_comm

/-- Settles O27: the two calls and the one leave the same ticks on every kind of medium. -/
theorem splitWritesLeaveTheSameMedium : Obligations.SplitWritesLeaveTheSameMedium := by
  intro m a b c k l t h hab hbc _ hk _ hl
  rw [Bool.eq_iff_iff, Medium.hasFlux_iff (Medium.write_wf (Medium.write_wf h a b k) b c l),
    Medium.hasFlux_iff (Medium.write_wf h a c (k ++ l))]
  cases m with
  | linear l₀ => exact Medium.write_split_holds (m := .linear l₀) (fun _ _ => nofun) hab hbc hk t
  | external id ws => exact Medium.write_split_holds (m := .external id ws) (fun _ _ => nofun) hab hbc hk t
  | rotating rev l₀ =>
    obtain ⟨⟨hrev, hrising⟩, hlt⟩ := Medium.wf_rotating.1 h
    exact mem_rotatingWrite_split (Nat.mod_lt t hrev) hlt hrising hab hbc hk hl

end Sys2Proof.Machine

/-! PROOF. Without FM a byte's cells hold no two neighbouring ones (42_codec.md R169, 44_write_flux.md R232). -/

namespace Sys2Proof.Machine

/-- No two neighbouring cells are ones. -/
def Isolated (cells : List Bool) : Prop := cells.IsChain fun x y => ¬ (x = true ∧ y = true)

/-- The verbatim clock stands with the mark's data byte only, whose last `n` pairs are still to send: `tx_prev` then holds the
data bit above them, once one has been sent (42_codec.md R168, R171). -/
structure VerbatimMark (n : Nat) (t : Transmit) : Prop where
  pair : t.verb = true → t.data = 0xA1#8 ∧ t.clk = 0x0A#8
  prev : n < 8 → t.prev = t.data.getLsbD n

/-- The mark's clock byte has its ones between two zeros of its data byte; the first cell of all is a 0. -/
theorem mark_clock_isolated : ∀ n < 8, (0x0A#8).getLsbD n = true →
    n + 1 < 8 ∧ (0xA1#8).getLsbD (n + 1) = false ∧ (0xA1#8).getLsbD n = false := by decide

/-- A clock bit is a one only between two data bits that are zeros: by the MFM rule, and in the mark as its bytes are. -/
theorem VerbatimMark.clockBit {n : Nat} {t : Transmit} (h : VerbatimMark (n + 1) t) (hn : n < 8)
    (hclk : clockBit false t n = true) : t.prev = false ∧ t.data.getLsbD n = false := by
  cases hverb : t.verb with
  | false => simpa [Machine.clockBit, hverb] using hclk
  | true =>
    obtain ⟨hdata, hclock⟩ := h.pair hverb
    simp only [Machine.clockBit, hverb, Bool.false_eq_true, if_false, if_true, hclock] at hclk
    obtain ⟨hlast, habove, hbelow⟩ := mark_clock_isolated n hn hclk
    rw [h.prev hlast, hdata]
    exact ⟨habove, hbelow⟩

theorem sendCells_isolated {n : Nat} (hn : n ≤ 8) (t : Transmit) (h : VerbatimMark n t) :
    Isolated (t.prev :: sendCells false (2 * n) (16 - 2 * n) t) := by
  induction n generalizing t with
  | zero => exact .singleton _
  | succ n ih =>
    have hclk := h.clockBit hn
    have hrest := ih (by omega) { t with prev := t.data.getLsbD n } ⟨h.pair, fun _ => rfl⟩
    rw [sendCells_pair false t (by omega)]
    refine .cons_cons ?_ (.cons_cons ?_ hrest)
    · rintro ⟨hprev, hone⟩
      rw [(hclk hone).1] at hprev
      cases hprev
    · rintro ⟨hone, hdata⟩
      rw [(hclk hone).2] at hdata
      cases hdata

theorem Isolated.not_adjacent {cells : List Bool} (h : Isolated cells) (k : Nat) :
    ¬ (cells[k]? = some true ∧ cells[k + 1]? = some true) := by
  rintro ⟨hk, hk'⟩
  obtain ⟨hlt, hone⟩ := List.getElem?_eq_some_iff.1 hk
  obtain ⟨hlt', hone'⟩ := List.getElem?_eq_some_iff.1 hk'
  exact List.isChain_iff_getElem.1 h k hlt' ⟨hone, hone'⟩

/-- Settles O39: the sixteen cells are the eight pairs, and `tx_prev` is the cell before the first. -/
theorem mfmCellsAreNeverAdjacentOnes : Obligations.MfmCellsAreNeverAdjacentOnes := by
  intro t ht
  have hcells : Isolated (t.prev :: sendByte false t) :=
    sendCells_isolated (n := 8) le_rfl t ⟨ht, fun h => absurd h (lt_irrefl 8)⟩
  exact hcells.not_adjacent

end Sys2Proof.Machine

/-! PROOF. The write buffer agrees with the class of the state, rises within its interval and has room (10_state.md R58,
44_write_flux.md R230, R232): the part of `BlockInv` that speaks of it, kept by every cell and every own part. -/

namespace Sys2Proof.Machine

/-! ### One rule per update of the buffer -/

/-- What `BlockInv` says of the write-flux buffer. -/
structure Buffered (s : State) : Prop where
  writing : s.wbuf.start.isSome = s.seq.state.isWrite
  emptied : s.wbuf.start = none → s.wbuf.ticks = []
  interval : ∀ a, s.wbuf.start = some a → a ≤ s.cur.windowStart ∧ ∀ t ∈ s.wbuf.ticks, a ≤ t ∧ t < s.cur.windowStart
  rising : s.wbuf.ticks.Pairwise (· < ·)
  room : s.wbuf.ticks.length < s.cfg.wbufCap

theorem BlockInv.buffered {s : State} (h : BlockInv s) : Buffered s :=
  ⟨h.writing, h.emptied, h.interval, h.rising, h.room⟩

section Buffer

variable {s t : State}

/-- The buffer stays, the class of the state too, and the window does not move back. -/
theorem Buffered.congr (h : Buffered s) (hwbuf : t.wbuf = s.wbuf) (hclass : t.seq.state.isWrite = s.seq.state.isWrite)
    (hcfg : t.cfg = s.cfg) (hcur : s.cur.windowStart ≤ t.cur.windowStart) : Buffered t where
  writing := by rw [hwbuf, hclass]; exact h.writing
  emptied := by rw [hwbuf]; exact h.emptied
  interval := by
    rw [hwbuf]
    intro a ha
    obtain ⟨hle, hin⟩ := h.interval a ha
    exact ⟨hle.trans hcur, fun x hx => ⟨(hin x hx).1, (hin x hx).2.trans_le hcur⟩⟩
  rising := by rw [hwbuf]; exact h.rising
  room := by rw [hwbuf, hcfg]; exact h.room

/-- An interval opened at a tick not after the window's start, in a write-type state (44_write_flux.md R231, R233). -/
theorem Buffered.opened {a : Nat} (hcap : 1 ≤ s.cfg.wbufCap) (hwbuf : s.wbuf = { start := some a, ticks := [] })
    (hclass : s.seq.state.isWrite = true) (ha : a ≤ s.cur.windowStart) : Buffered s where
  writing := by rw [hwbuf, hclass]; rfl
  emptied := by rw [hwbuf]; exact fun _ => rfl
  interval := by
    rw [hwbuf]
    rintro _ ⟨⟩
    exact ⟨ha, nofun⟩
  rising := by rw [hwbuf]; exact .nil
  room := by rw [hwbuf]; exact hcap

/-- No write in progress, in any other state (44_write_flux.md R234). -/
theorem Buffered.closed (hcap : 1 ≤ s.cfg.wbufCap) (hwbuf : s.wbuf = { start := none, ticks := [] })
    (hclass : s.seq.state.isWrite = false) : Buffered s where
  writing := by rw [hwbuf, hclass]; rfl
  emptied := by rw [hwbuf]; exact fun _ => rfl
  interval := by rw [hwbuf]; exact nofun
  rising := by rw [hwbuf]; exact .nil
  room := by rw [hwbuf]; exact hcap

theorem Buffered.wbuf_of_start (h : Buffered s) (hstart : s.wbuf.start = none) :
    s.wbuf = { start := none, ticks := [] } := by
  rw [← hstart, ← h.emptied hstart]

/-- Outside the write-type states nothing is buffered (44_write_flux.md R230). -/
theorem Buffered.wbuf_of_class (h : Buffered s) (hclass : s.seq.state.isWrite = false) :
    s.wbuf = { start := none, ticks := [] } := by
  refine h.wbuf_of_start (Option.not_isSome_iff_eq_none.1 ?_)
  rw [h.writing, hclass]
  exact Bool.false_ne_true

theorem Buffered.cap_pos (h : Buffered s) : 1 ≤ s.cfg.wbufCap := Nat.one_le_of_lt h.room

/-! ### Commits -/

theorem commit_seq (e : Nat) (s : State) : (commit e s).seq = s.seq := by rw [commit_frame]

/-- A commit past the interval's start opens the next interval (44_write_flux.md R233). -/
theorem commit_wbuf {a e : Nat} (hstart : s.wbuf.start = some a) (hne : a ≠ e) :
    (commit e s).wbuf = { start := some e, ticks := [] } := by
  rw [commit_of_call hstart hne]
  rfl

/-- A commit at the window's start, where R252 makes one, empties the buffer or leaves it. -/
theorem Buffered.commit (h : Buffered s) : Buffered (commit s.cur.windowStart s) := by
  rcases commit_cases s.cur.windowStart s with ⟨-, hc⟩ | ⟨a, ha, -, hc⟩
  · rw [hc]
    exact h
  · have hclass : s.seq.state.isWrite = true := by rw [← h.writing, ha]; rfl
    rw [hc]
    exact .opened h.cap_pos rfl hclass (le_refl _)

/-- The flush of a command or a reset leaves no write in progress (43_sequencer.md R183). -/
theorem Buffered.flushWrite_wbuf (h : Buffered s) : (flushWrite s).wbuf = { start := none, ticks := [] } := by
  rcases flushWrite_cases s with ⟨hstart, hf⟩ | ⟨-, hf⟩ <;> rw [hf]
  · exact h.wbuf_of_start hstart
  · rfl

theorem Buffered.flushWrite_cap_pos (h : Buffered s) : 1 ≤ (flushWrite s).cfg.wbufCap := by
  rw [(flushWrite_ports s).cfg]
  exact h.cap_pos

/-! ### Cells -/

/-- A cell's end hands a full buffer on, and leaves one that still has room (41_pll.md R150). -/
theorem Buffered.commitIfFull {a : Nat} (hclass : s.seq.state.isWrite = true) (hstart : s.wbuf.start = some a)
    (ha : a < s.cur.windowStart) (hin : ∀ x ∈ s.wbuf.ticks, a ≤ x ∧ x < s.cur.windowStart)
    (hrising : s.wbuf.ticks.Pairwise (· < ·)) (hcap : 1 ≤ s.cfg.wbufCap) (hroom : s.wbuf.ticks.length ≤ s.cfg.wbufCap) :
    Buffered (commitIfFull s.cur.windowStart s) := by
  unfold Machine.commitIfFull
  split
  · have hcur : (Machine.commit s.cur.windowStart s).cur = s.cur := (commit_clock _ s).1
    refine .opened ?_ (commit_wbuf hstart (Nat.ne_of_lt ha)) ?_ (le_of_eq (by rw [hcur]))
    · rw [(commit_ports _ s).cfg]
      exact hcap
    · rw [commit_seq]
      exact hclass
  · rename_i hfull
    refine ⟨by rw [hstart, hclass]; rfl, by rw [hstart]; exact nofun, fun b hb => ?_, hrising, Nat.lt_of_le_of_ne hroom hfull⟩
    cases hb.symm.trans hstart
    exact ⟨Nat.le_of_lt ha, hin⟩

/-- A written cell's transition stands past all those buffered, and within the cell. -/
theorem Buffered.pllWriteNextBit (h : Buffered s) (hclass : s.seq.state.isWrite = true) (hp : s.pll.period ≠ 0) {bit : Bool}
    {limit : Nat} (hc : Machine.pllWriteNextBit bit limit s = some t) : Buffered t := by
  obtain ⟨a, ha⟩ : ∃ a, s.wbuf.start = some a := Option.isSome_iff_exists.1 (h.writing.trans hclass)
  obtain ⟨hle, hin⟩ := h.interval a ha
  have hend : a < s.cur.windowStart + s.pll.period := by omega
  rw [(pllWriteNextBit_eq_some hc).2]
  cases bit with
  | false =>
    exact Buffered.commitIfFull (s := s.withCursors (s.cur.windowStart + s.pll.period)) hclass ha hend
      (fun x hx => ⟨(hin x hx).1, Nat.lt_add_right _ (hin x hx).2⟩) h.rising h.cap_pos (Nat.le_of_lt h.room)
  | true =>
    refine Buffered.commitIfFull (s := (appendCell true s).withCursors (s.cur.windowStart + s.pll.period)) hclass ha hend
      (fun x hx => ?_) ?_ h.cap_pos ?_
    · rcases List.mem_append.1 hx with hx | hx
      · exact ⟨(hin x hx).1, Nat.lt_add_right _ (hin x hx).2⟩
      · rw [List.mem_singleton.1 hx]
        change _ ∧ _ < s.cur.windowStart + s.pll.period
        omega
    · refine List.pairwise_append.2 ⟨h.rising, List.pairwise_singleton _ _, fun x hx y hy => ?_⟩
      rw [List.mem_singleton.1 hy]
      exact Nat.lt_add_right _ (hin x hx).2
    · have hlength : (s.wbuf.ticks ++ [s.cur.windowStart + s.pll.period / 2]).length = s.wbuf.ticks.length + 1 :=
        List.length_append
      exact hlength.trans_le h.room

/-! The classes of 10_state.md R34: no state is of both, and every state but IDLE is of one. -/

theorem SeqState.isWrite_of_isRead {q : SeqState} (h : q.isRead = true) : q.isWrite = false := by
  cases q <;> simp [SeqState.isRead, SeqState.isWrite] at *

theorem SeqState.isWrite_of_not_isRead {q : SeqState} (hidle : q ≠ .idle) (h : ¬ q.isRead = true) : q.isWrite = true := by
  cases q <;> simp [SeqState.isRead, SeqState.isWrite] at *

theorem pllGetNextBit_wbuf {limit : Nat} {b : Bool} (h : pllGetNextBit limit s = some (b, t)) : t.wbuf = s.wbuf := by
  rcases (pllGetNextBit_eq_some h).2 with ⟨-, -, rfl⟩ | ⟨edge, -, -, rfl⟩ <;> rfl

/-- Only the boundary that starts writing leads from a read-type state to a write-type one (43_sequencer.md R204). -/
theorem readBoundary_class (synced : Bool) (hread : s.seq.state.isRead = true) (hq : s.seq.state ≠ .writeSkipGap) :
    (readBoundary synced s).seq.state.isWrite = false := by
  have htable : ∀ m ∈ cellTransitions, m.1.isRead = true → m.1 ≠ .writeSkipGap → m.2.isWrite = false := by decide
  rcases readBoundary_move synced s with hstay | hrow
  · rw [hstay]
    exact SeqState.isWrite_of_isRead hread
  · exact htable _ hrow hread hq

/-- And only that one touches the buffer (43_sequencer.md R194). -/
theorem readBoundary_wbuf (synced : Bool) (hq : s.seq.state ≠ .writeSkipGap) : (readBoundary synced s).wbuf = s.wbuf := by
  unfold Machine.readBoundary
  cases hstate : s.seq.state with
  | writeSkipGap => exact absurd hstate hq
  | readWaitHeaderSync | readVerifyHeader | readSkipGap | readWaitSectorSync | readVerifySector =>
    simp only [waitHeaderBoundary, verifyHeaderBoundary, readSkipGapBoundary, waitSectorBoundary, verifySectorBoundary]
    repeat' split
    all_goals rfl
  | read =>
    simp only [readBoundaryRead, overrunAbort, readComplete, takeByte, State.latchCrcError]
    repeat' split
    all_goals rfl
  | idle | writeSectorSync | writeSector | writeCrc | format => rfl

theorem Buffered.readBoundary (h : Buffered s) (hread : s.seq.state.isRead = true) (synced : Bool) :
    Buffered (readBoundary synced s) := by
  by_cases hq : s.seq.state = .writeSkipGap
  · rw [readBoundary_of_writeSkipGap hq, writeSkipGapBoundary]
    split
    · exact .opened h.cap_pos rfl rfl (le_refl _)
    · exact h.congr rfl rfl rfl (le_refl _)
  · have hclass := (readBoundary_class synced hread hq).trans (SeqState.isWrite_of_isRead hread).symm
    exact h.congr (readBoundary_wbuf synced hq) hclass (readBoundary_ports synced s).cfg
      (le_of_eq (by rw [(readBoundary_clock synced s).1]))

theorem Buffered.decodedBit (h : Buffered s) (hread : s.seq.state.isRead = true) (b : Bool) : Buffered (decodedBit b s) := by
  have hfed : Buffered (fedCell b s) := h.congr rfl rfl rfl (le_refl _)
  have hmark : Buffered (markCell b s) := h.congr rfl rfl rfl (le_refl _)
  unfold Machine.decodedBit
  split
  · exact hmark.readBoundary hread true
  · split
    · exact hfed.readBoundary hread false
    · exact hfed

/-- A write goes on at every boundary but the last of WRITE_CRC, which ends it (43_sequencer.md R200 to R203). -/
theorem Buffered.writeBoundary (h : Buffered s) : Buffered (writeBoundary s) := by
  cases hq : s.seq.state with
  | writeSectorSync =>
    rw [writeBoundary_of_writeSectorSync hq, writeSyncBoundary]
    split
    · exact h.congr rfl (by rw [hq]; rfl) rfl (le_refl _)
    · exact h.congr rfl rfl rfl (le_refl _)
  | writeSector =>
    rw [writeBoundary_of_writeSector hq, writeSectorBoundary]
    split
    · exact h.congr rfl (by rw [hq]; rfl) rfl (le_refl _)
    · exact h.congr rfl rfl rfl (le_refl _)
  | writeCrc =>
    rw [writeBoundary_of_writeCrc hq, writeCrcBoundary]
    split
    · exact h.congr rfl rfl rfl (le_refl _)
    · rw [writeComplete_eq, stopWriting_frame]
      exact .closed h.cap_pos rfl rfl
  | format =>
    rw [writeBoundary_of_format hq]
    exact h.congr rfl rfl rfl (le_refl _)
  | idle | readWaitHeaderSync | readVerifyHeader | readSkipGap | readWaitSectorSync | readVerifySector | read
  | writeSkipGap =>
    rw [Machine.writeBoundary, hq]
    exact h

theorem Buffered.sentBit (h : Buffered s) (k : Fin 16) (b : Bool) (q : SeqState) : Buffered (sentBit k b q s) := by
  have hsent : Buffered (sentCell k b q s) := h.congr rfl rfl rfl (le_refl _)
  unfold Machine.sentBit
  split
  · exact hsent.writeBoundary
  · exact hsent

/-- A read cell decides where no write is in progress, so its window may end before its start (log 6); a written cell goes on
with the write. -/
theorem Buffered.syncCell (h : Buffered s) {now : Nat} (hidle : s.seq.state ≠ .idle) (hp : s.pll.period ≠ 0)
    (hc : Machine.syncCell now s = some t) : Buffered t := by
  unfold Machine.syncCell at hc
  split at hc
  · rename_i hread
    obtain ⟨b, u, hu, rfl⟩ := codecReadCell_eq_some hc
    have hclass := SeqState.isWrite_of_isRead hread
    have hseq := (pllGetNextBit_regs_seq hu).2
    have hcfg := (pllGetNextBit_ports hu).cfg
    have hdecided : Buffered u :=
      .closed (hcfg ▸ h.cap_pos) ((pllGetNextBit_wbuf hu).trans (h.wbuf_of_class hclass)) (by rw [hseq]; exact hclass)
    exact hdecided.decodedBit (by rw [hseq]; exact hread) b
  · rename_i hwrite
    obtain ⟨u, hu, rfl⟩ := codecWriteCell_eq_some hc
    exact (h.pllWriteNextBit (SeqState.isWrite_of_not_isRead hidle hwrite) hp hu).sentBit _ _ _

/-! ### Own parts -/

theorem Buffered.selectDrive (h : Buffered s) (v : Byte) : Buffered (selectDrive v s) := by
  have hcommit : Buffered (commitOnReselect v s) := by
    unfold commitOnReselect
    split
    · exact h.commit
    · exact h
  unfold Machine.selectDrive
  simp only
  split <;> exact hcommit.congr rfl rfl rfl (le_refl _)

/-- A format command opens an interval at its own tick (43_sequencer.md R188). -/
theorem Buffered.formatCommand (h : Buffered s) (v : Byte) : Buffered (formatCommand v s) := by
  rw [formatCommand_eq]
  exact .opened h.flushWrite_cap_pos rfl rfl (le_refl _)

/-- The other commands leave no write in progress (43_sequencer.md R183). -/
theorem Buffered.idleCommand (h : Buffered s) (v : Byte) : Buffered (idleCommand v s) := by
  rw [idleCommand_eq]
  exact .closed h.flushWrite_cap_pos h.flushWrite_wbuf rfl

theorem Buffered.searchCommand (h : Buffered s) (v : Byte) : Buffered (searchCommand v s) := by
  rw [searchCommand_eq]
  exact .closed h.flushWrite_cap_pos h.flushWrite_wbuf rfl

theorem Buffered.startCommand (h : Buffered s) (v : Byte) : Buffered (startCommand v s) := by
  unfold Machine.startCommand
  split
  · exact h.idleCommand v
  · split
    · exact h.formatCommand v
    · exact h.searchCommand v

theorem Buffered.answer (h : Buffered s) (o : Output) : Buffered (s.answer o) := h.congr rfl rfl rfl (le_refl _)

theorem Buffered.ownPart (h : Buffered s) {i : Instr} (hx : i.external = true) : Buffered (ownPart i s) := by
  cases i with
  | rdStat0 | rdStat1 | rdRsvd2 | rdData | rdRsvd4 | wrCmd1 | wrData | wrClk | wrSect | wrTrck | wrCell | sync =>
    exact h.congr rfl rfl rfl (le_refl _)
  | wrCmd0 v => exact (h.startCommand v).answer _
  | wrCmd2 v => exact (h.selectDrive v).answer _
  | cmdIdle v => exact (h.idleCommand v).answer _
  | cmdFormat v => exact (h.formatCommand v).answer _
  | cmdWriteSector v | cmdReadHead v | cmdReadSector v => exact (h.searchCommand v).answer _
  | reset => exact .closed h.flushWrite_cap_pos rfl rfl
  | crcBit | crcByte | crcOfByte | pllSetClock | pllReadReset | pllGetNextBit | pllWriteNextBit | codecReadCell | codecWriteCell
  | wbufStart | wbufCommit | wbufStop => cases hx

end Buffer

end Sys2Proof.Machine

/-! PROOF. The PLL's bounds are those of the commanded cell length, and below 20 ticks the period never moves (10_state.md R55,
41_pll.md R141, R153 (c)): the part of `BlockInv` that speaks of the PLL. -/

namespace Sys2Proof.Machine

/-! ### One rule per update of the PLL -/

/-- What `BlockInv` says of the PLL. -/
structure Clocked (s : State) : Prop where
  bounds : s.pll.minPeriod = 3 * nominalPeriod s / 4 ∧ s.pll.maxPeriod = 5 * nominalPeriod s / 4
    ∧ s.pll.adjustBase = nominalPeriod s / 20
  still : nominalPeriod s < 20 → s.pll.period = nominalPeriod s

theorem BlockInv.clocked {s : State} (h : BlockInv s) : Clocked s := ⟨h.bounds, h.still⟩

section Clock

variable {s t : State}

theorem nominalPeriod_congr (hcfg : t.cfg = s.cfg) (hcell : t.regs.cell = s.regs.cell) : nominalPeriod t = nominalPeriod s := by
  rw [nominalPeriod, hcfg, hcell, nominalPeriod]

/-- The phase correction and the history are free. -/
theorem Clocked.congr (h : Clocked s) (hcfg : t.cfg = s.cfg) (hcell : t.regs.cell = s.regs.cell) {phase : Int}
    {hist : BitVec 8} (hpll : t.pll = { s.pll with phaseAdjust := phase, freqHist := hist }) : Clocked t where
  bounds := by rw [hpll, nominalPeriod_congr hcfg hcell]; exact h.bounds
  still := by rw [hpll, nominalPeriod_congr hcfg hcell]; exact h.still

/-- Nothing of the PLL changes. -/
theorem Clocked.of_pll (h : Clocked s) (hcfg : t.cfg = s.cfg) (hcell : t.regs.cell = s.regs.cell) (hpll : t.pll = s.pll) :
    Clocked t := h.congr hcfg hcell hpll

/-- A cell length commanded sets the clock to it (45_bus_ops.md R257). -/
theorem commandCell_clocked (v : Byte) (s : State) : Clocked (commandCell v s) where
  bounds := ⟨rfl, rfl, rfl⟩
  still := fun _ => rfl

/-! ### Cells -/

/-- Without a base of adjustment the nudge is 0, and the clamp leaves a period within its bounds (41_pll.md R148). -/
theorem Pll.correct_period_of_base_zero {r : Pll} (hbase : r.adjustBase = 0) (hp : r.period ≠ 0)
    (hbounds : r.minPeriod ≤ r.period ∧ r.period ≤ r.maxPeriod) (cfg : Config) (delta : Int) :
    (r.correct cfg delta).period = r.period := by
  have hnudge : r.nudge delta = 0 := by
    rw [Pll.nudge, if_neg hp, hbase, truncDiv_eq_tdiv]
    simp
  simp only [Pll.correct, hnudge, clamp_toNat]
  split_ifs <;> omega

theorem Clocked.pllGetNextBit (h : Clocked s) (hperiod : s.pll.minPeriod ≤ s.pll.period ∧ s.pll.period ≤ s.pll.maxPeriod)
    (hp : s.pll.period ≠ 0) {limit : Nat} {b : Bool} (hc : Machine.pllGetNextBit limit s = some (b, t)) : Clocked t := by
  rcases (pllGetNextBit_eq_some hc).2 with ⟨-, -, rfl⟩ | ⟨edge, -, -, rfl⟩
  · exact h.congr rfl rfl rfl
  · refine ⟨h.bounds, fun hsmall => ?_⟩
    obtain ⟨-, -, hbase⟩ := h.bounds
    have hzero : s.pll.adjustBase = 0 := hbase.trans (Nat.div_eq_of_lt hsmall)
    exact (Pll.correct_period_of_base_zero hzero hp hperiod _ _).trans (h.still hsmall)

/-- No read boundary writes the cell-length selector. -/
theorem readBoundary_cell (synced : Bool) (s : State) : (readBoundary synced s).regs.cell = s.regs.cell := by
  by_cases hq : s.seq.state = .read
  · rw [readBoundary_of_read hq]
    simp only [readBoundaryRead, overrunAbort, readComplete, takeByte, State.latchCrcError]
    repeat' split
    all_goals rfl
  · rcases readBoundary_regs synced hq with hregs | hregs <;> rw [hregs]
    rw [State.setSync_eq]
    rfl

theorem decodedBit_cell (b : Bool) (s : State) : (decodedBit b s).regs.cell = s.regs.cell := by
  unfold decodedBit
  split
  · exact readBoundary_cell true (markCell b s)
  · split
    · exact readBoundary_cell false (fedCell b s)
    · rfl

theorem sentBit_cell (k : Fin 16) (b : Bool) (q : SeqState) (s : State) : (sentBit k b q s).regs.cell = s.regs.cell := by
  unfold sentBit
  split
  · rcases writeBoundary_regs (sentCell k b q s) with hregs | ⟨m, hregs⟩ <;> rw [hregs] <;> rfl
  · rfl

theorem Clocked.decodedBit (h : Clocked s) (b : Bool) : Clocked (decodedBit b s) := by
  have hcfg := (decodedBit_ports b s).cfg
  rcases (decodedBit_clock b s).2 with hpll | hpll
  · exact h.of_pll hcfg (decodedBit_cell b s) hpll
  · exact h.congr hcfg (decodedBit_cell b s) hpll

theorem Clocked.sentBit (h : Clocked s) (k : Fin 16) (b : Bool) (q : SeqState) : Clocked (sentBit k b q s) := by
  have hcfg := (sentBit_ports k b q s).cfg
  rcases sentBit_pll k b q s with hpll | hpll
  · exact h.of_pll hcfg (sentBit_cell k b q s) hpll
  · exact h.congr hcfg (sentBit_cell k b q s) hpll

theorem Clocked.syncCell (h : Clocked s) (hperiod : s.pll.minPeriod ≤ s.pll.period ∧ s.pll.period ≤ s.pll.maxPeriod)
    (hp : s.pll.period ≠ 0) {now : Nat} (hc : Machine.syncCell now s = some t) : Clocked t := by
  unfold Machine.syncCell at hc
  split at hc
  · obtain ⟨b, u, hu, rfl⟩ := codecReadCell_eq_some hc
    exact (h.pllGetNextBit hperiod hp hu).decodedBit b
  · obtain ⟨u, hu, rfl⟩ := codecWriteCell_eq_some hc
    have hregs := pllWriteNextBit_regs hu
    exact (h.of_pll (pllWriteNextBit_ports hu).cfg (by rw [hregs]) (pllWriteNextBit_pll hu)).sentBit _ _ _

/-! ### Own parts -/

theorem selectDrive_pll (v : Byte) (s : State) : (selectDrive v s).pll = s.pll := by
  have hcommit : (commitOnReselect v s).pll = s.pll := by
    unfold commitOnReselect
    split
    · exact (commit_clock _ s).2
    · rfl
  rw [← hcommit]
  unfold selectDrive
  simp only
  split <;> rfl

theorem Clocked.flushWrite (h : Clocked s) : Clocked (flushWrite s) := by
  rw [flushWrite_frame]
  exact h.of_pll rfl rfl rfl

/-! A command clears the phase correction and the history, and leaves the cell length (43_sequencer.md R183). -/

theorem Clocked.idleCommand (h : Clocked s) (v : Byte) : Clocked (idleCommand v s) := by
  rw [idleCommand_eq]
  exact h.flushWrite.congr rfl rfl rfl

theorem Clocked.formatCommand (h : Clocked s) (v : Byte) : Clocked (formatCommand v s) := by
  rw [formatCommand_eq]
  exact h.flushWrite.congr rfl rfl rfl

theorem Clocked.searchCommand (h : Clocked s) (v : Byte) : Clocked (searchCommand v s) := by
  rw [searchCommand_eq]
  exact h.flushWrite.congr rfl rfl rfl

theorem Clocked.startCommand (h : Clocked s) (v : Byte) : Clocked (startCommand v s) := by
  unfold Machine.startCommand
  split
  · exact h.idleCommand v
  · split
    · exact h.formatCommand v
    · exact h.searchCommand v

/-- At reset no cell length is commanded (10_state.md R62). -/
theorem clearState_clocked (n : Nat) (s : State) : Clocked (clearState n s) := by
  have hnominal : nominalPeriod (clearState n s) = 0 := by simp [nominalPeriod, cellPeriod, clearState, Regs.reset]
  refine ⟨?_, fun _ => hnominal.symm⟩
  rw [hnominal]
  exact ⟨rfl, rfl, rfl⟩

theorem Clocked.answer (h : Clocked s) (o : Output) : Clocked (s.answer o) := h.of_pll rfl rfl rfl

theorem Clocked.ownPart (h : Clocked s) {i : Instr} (hx : i.external = true) : Clocked (ownPart i s) := by
  cases i with
  | rdStat0 | rdStat1 | rdRsvd2 | rdData | rdRsvd4 | wrCmd1 | wrData | wrClk | wrSect | wrTrck | sync => exact h.of_pll rfl rfl rfl
  | wrCmd0 v => exact (h.startCommand v).answer _
  | wrCmd2 v =>
    have hregs := selectDrive_regs v s
    exact Clocked.answer (h.of_pll (selectDrive_inputs v s).cfg (by rw [hregs]) (selectDrive_pll v s)) _
  | wrCell v => exact (commandCell_clocked v s).answer _
  | cmdIdle v => exact (h.idleCommand v).answer _
  | cmdFormat v => exact (h.formatCommand v).answer _
  | cmdWriteSector v | cmdReadHead v | cmdReadSector v => exact (h.searchCommand v).answer _
  | reset => exact (clearState_clocked _ _).answer _
  | crcBit | crcByte | crcOfByte | pllSetClock | pllReadReset | pllGetNextBit | pllWriteNextBit | codecReadCell | codecWriteCell
  | wbufStart | wbufCommit | wbufStop => cases hx

end Clock

end Sys2Proof.Machine

/-! PROOF. `BlockInv` from its parts: kept by every cell, every `Sync` at the time port's tick, every own part of an operation of
the consumer or the reset port, and so by their steps. -/

namespace Sys2Proof.Machine

section Block

variable {s t : State}

theorem BlockInv.of_parts (hbasic : Inv s) (hparams : s.cfg.wf = true) (honTime : s.cur.lastSync ≤ s.now) (hbuffer : Buffered s)
    (hclock : Clocked s) : BlockInv s where
  basic := hbasic
  params := hparams
  onTime := honTime
  writing := hbuffer.writing
  emptied := hbuffer.emptied
  interval := hbuffer.interval
  rising := hbuffer.rising
  room := hbuffer.room
  bounds := hclock.bounds
  still := hclock.still

/-- A cell of the `Sync` up to the time port's tick. -/
theorem BlockInv.syncCell (h : BlockInv s) (hidle : s.seq.state ≠ .idle) (hp : s.pll.period ≠ 0)
    (hc : Machine.syncCell s.now s = some t) : BlockInv t := by
  have hports := syncCell_ports hc
  have hstart : s.cur.windowStart ≤ s.now := h.basic.cursors ▸ h.onTime
  have hbasic := h.basic.syncCell hc
  refine .of_parts hbasic (hports.cfg ▸ h.params) ?_ (h.buffered.syncCell hidle hp hc) (h.clocked.syncCell h.basic.period hp hc)
  rw [hbasic.cursors, hports.now]
  exact syncCell_le hstart hc

/-- In IDLE or stalled the cursors move forward to the tick. -/
theorem BlockInv.stall (h : BlockInv s) : BlockInv (s.withCursors s.now) := by
  have hphase := h.basic.phase
  have hstart : s.cur.windowStart ≤ s.now := h.basic.cursors ▸ h.onTime
  exact .of_parts (h.basic.withCursors (by omega)) h.params (le_refl _) (h.buffered.congr rfl rfl rfl hstart)
    (h.clocked.of_pll rfl rfl rfl)

theorem BlockInv.sync (h : BlockInv s) : BlockInv (sync s.now s) := by
  have hkept : BlockInv (Machine.sync s.now s) ∧ (Machine.sync s.now s).now = s.now := by
    refine sync_keeps (P := fun u => BlockInv u ∧ u.now = s.now) (fun u v hu hidle hp _ hc => ?_) (fun u hu _ _ => ?_) ⟨h, rfl⟩
    · obtain ⟨hblock, hnow⟩ := hu
      rw [← hnow] at hc ⊢
      exact ⟨hblock.syncCell hidle hp hc, (syncCell_ports hc).now⟩
    · obtain ⟨hblock, hnow⟩ := hu
      rw [← hnow]
      exact ⟨hblock.stall, rfl⟩
  exact hkept.1

theorem BlockInv.ownPart (h : BlockInv s) {i : Instr} (hx : i.external = true) : BlockInv (ownPart i s) := by
  have hinputs := ownPart_inputs i s
  refine .of_parts (h.basic.ownPart i) (hinputs.cfg ▸ h.params) ?_ (h.buffered.ownPart hx) (h.clocked.ownPart hx)
  rw [hinputs.now]
  rcases ownPart_cur hx s with hcur | hcur <;> rw [hcur]
  exact h.onTime

/-- A request that is taken brings the time port forward. -/
theorem BlockInv.latch (h : BlockInv s) {r : Request} {rest : List Request} (hin : s.inbox = r :: rest) (hnow : s.now ≤ r.now) :
    BlockInv (s.latch r rest) :=
  .of_parts (h.basic.latch hin) h.params (h.onTime.trans hnow) (h.buffered.congr rfl rfl rfl (le_refl _))
    (h.clocked.of_pll rfl rfl rfl)

end Block

/-- Settles O59: a step does nothing, or takes a request and runs its operation, which is `Sync` and its own part. -/
theorem externalStepsKeepBlockInv : Obligations.ExternalStepsKeepBlockInv := by
  intro s t h hexternal hstep
  rcases step_eq_next hstep with ⟨-, rfl⟩ | ⟨r, rest, i, hin, hd, hnow, he⟩
  · exact h
  · have hx : i.external = true := by
      have hr := hexternal r (by simp [hin])
      rwa [Request.external, hd] at hr
    rw [(exec_external hx he).2]
    exact (h.latch hin hnow).sync.ownPart hx

end Sys2Proof.Machine

/-! PROOF. The bus operations (45_bus_ops.md): the own part of each read and write after its `Sync`, and that no cell touches the
bits of status0 that no rule sets (R246, 10_state.md R40, R42). -/

namespace Sys2Proof.Machine

/-! ### The bits of status0 that no rule sets -/

/-- Bits 6 and 5 of status0, and END (10_state.md R40, R42). -/
def State.reservedFlags (s : State) : Byte := s.regs.stat0 &&& 0x70#8

theorem State.reservedFlags_congr {s t : State} (h : t.regs = s.regs) : t.reservedFlags = s.reservedFlags := by
  rw [State.reservedFlags, h, State.reservedFlags]

theorem State.setFlags_reservedFlags (s : State) {m : Byte} (hm : m &&& 0x70#8 = 0#8) :
    (s.setFlags m).reservedFlags = s.reservedFlags := by
  simp only [State.reservedFlags, State.setFlags_eq, State.withRegs_regs, BitVec.and_or_distrib_right, hm, BitVec.or_zero]

theorem State.clearFlags_reservedFlags (s : State) {m : Byte} (hm : ~~~m &&& 0x70#8 = 0x70#8) :
    (s.clearFlags m).reservedFlags = s.reservedFlags := by
  simp only [State.reservedFlags, State.clearFlags_eq, State.withRegs_regs, BitVec.and_assoc, hm]

theorem State.setSync_reservedFlags (s : State) (b : Bool) : (s.setSync b).reservedFlags = s.reservedFlags := by
  cases b with
  | true => exact s.setFlags_reservedFlags (m := maskSYNC) (by decide)
  | false => exact s.clearFlags_reservedFlags (m := maskSYNC) (by decide)

theorem State.setFree_reservedFlags (s : State) : s.setFree.reservedFlags = s.reservedFlags :=
  s.setFlags_reservedFlags (m := maskFREE) (by decide)

theorem State.requestByte_reservedFlags (s : State) : s.requestByte.reservedFlags = s.reservedFlags :=
  s.setFlags_reservedFlags (m := maskBYTE ||| maskDREQ) (by decide)

theorem State.latchCrcError_reservedFlags (s : State) : s.latchCrcError.reservedFlags = s.reservedFlags := by
  unfold State.latchCrcError
  split
  · exact s.setFlags_reservedFlags (m := maskCRCERR) (by decide)
  · rfl

theorem takeByte_reservedFlags (s : State) : (takeByte s).reservedFlags = s.reservedFlags := by
  unfold takeByte
  split
  · exact s.requestByte_reservedFlags
  · rfl

/-- A transfer ends, by overrun or complete, with CRCERR latched and FREE set (43_sequencer.md R198, R199). -/
theorem endOfRead_reservedFlags (s : State) : s.latchCrcError.setFree.reservedFlags = s.reservedFlags :=
  s.latchCrcError.setFree_reservedFlags.trans s.latchCrcError_reservedFlags

theorem readBoundaryRead_reservedFlags (s : State) : (readBoundaryRead s).reservedFlags = s.reservedFlags := by
  unfold readBoundaryRead
  split
  · exact endOfRead_reservedFlags s
  · split
    · exact (endOfRead_reservedFlags (takeByte s)).trans (takeByte_reservedFlags s)
    · exact takeByte_reservedFlags s

theorem readBoundary_reservedFlags (synced : Bool) (s : State) : (readBoundary synced s).reservedFlags = s.reservedFlags := by
  by_cases hq : s.seq.state = .read
  · rw [readBoundary_of_read hq]
    exact readBoundaryRead_reservedFlags s
  · rcases readBoundary_regs synced hq with hregs | hregs
    · exact State.reservedFlags_congr hregs
    · exact (State.reservedFlags_congr hregs).trans (s.setSync_reservedFlags false)

theorem writeBoundary_reservedFlags (s : State) : (writeBoundary s).reservedFlags = s.reservedFlags := by
  unfold writeBoundary
  cases s.seq.state with
  | writeSectorSync =>
    simp only [writeSyncBoundary]
    split
    · exact s.requestByte_reservedFlags
    · rfl
  | writeSector =>
    simp only [writeSectorBoundary]
    split
    · rfl
    · exact s.requestByte_reservedFlags
  | writeCrc =>
    simp only [writeCrcBoundary]
    split
    · rfl
    · exact (State.reservedFlags_congr (writeComplete_regs s)).trans s.setFree_reservedFlags
  | format => exact s.requestByte_reservedFlags
  | idle | readWaitHeaderSync | readVerifyHeader | readSkipGap | readWaitSectorSync | readVerifySector | read
  | writeSkipGap => rfl

theorem decodedBit_reservedFlags (b : Bool) (s : State) : (decodedBit b s).reservedFlags = s.reservedFlags := by
  unfold decodedBit
  split
  · exact (readBoundary_reservedFlags true _).trans (s.setSync_reservedFlags true)
  · split
    · exact (readBoundary_reservedFlags false _).trans (s.setSync_reservedFlags false)
    · exact s.setSync_reservedFlags false

theorem sentBit_reservedFlags (k : Fin 16) (b : Bool) (q : SeqState) (s : State) :
    (sentBit k b q s).reservedFlags = s.reservedFlags := by
  unfold sentBit
  split
  · exact writeBoundary_reservedFlags _
  · rfl

theorem syncCell_reservedFlags {now : Nat} {s t : State} (h : syncCell now s = some t) :
    t.reservedFlags = s.reservedFlags := by
  unfold syncCell at h
  split at h
  · obtain ⟨b, u, hu, rfl⟩ := codecReadCell_eq_some h
    exact (decodedBit_reservedFlags b u).trans (State.reservedFlags_congr (pllGetNextBit_regs_seq hu).1)
  · obtain ⟨u, hu, rfl⟩ := codecWriteCell_eq_some h
    exact (sentBit_reservedFlags _ _ _ u).trans (State.reservedFlags_congr (pllWriteNextBit_regs hu))

/-- From any state, one outside `Inv` included, `Sync` leaves the reserved bits and END as they were. -/
theorem sync_reservedFlags (now : Nat) (s : State) : (sync now s).reservedFlags = s.reservedFlags :=
  sync_keeps (P := fun u => u.reservedFlags = s.reservedFlags) (fun _ _ hu _ _ _ hc => (syncCell_reservedFlags hc).trans hu)
    (fun _ hu _ _ => hu) rfl

/-! ### The own parts by their fields -/

theorem consumeData_eq (s : State) :
    consumeData s = { s with regs := { s.regs with stat0 := s.regs.stat0 &&& 0x7D#8 }, out := .data s.regs.rdata } := rfl

theorem commandCell_eq (v : Byte) (s : State) :
    commandCell v s = { s with regs := { s.regs with cell := v }, pll := s.pll.setClock (cellPeriod s.cfg v) } := rfl

theorem commitOnReselect_eq_ite (v : Byte) (s : State) :
    commitOnReselect v s =
      if driveOf s.regs.cmd2 ≠ driveOf v ∧ s.wbuf.start ≠ none then commit s.cur.windowStart s else s := by
  simp only [commitOnReselect, Option.isSome_iff_ne_none]

theorem commitOnReselect_ports (v : Byte) (s : State) : PortsKept s (commitOnReselect v s) := by
  unfold commitOnReselect
  split
  · exact commit_ports _ s
  · exact .refl s

/-- The events of a command2 write that replaces `old`, in their order: the levels, and the pulse where STEP rises (45_bus_ops.md
R252). -/
def selectEvents (old v : Byte) : List (Option Nat × DriveEvent) :=
  [(driveOf v, .setSide (v.getLsbD 6)), (driveOf v, .setDirection (v.getLsbD 5)), (driveOf v, .setMotor (v.getLsbD 2))]
    ++ (if v.getLsbD 4 = true ∧ old.getLsbD 4 = false then [(driveOf v, .stepPulse)] else [])

/-- A command2 write on the state after the commit to the old drive (45_bus_ops.md R252). -/
theorem selectDrive_eq (v : Byte) (s : State) :
    selectDrive v s =
      { commitOnReselect v s with
        regs := { (commitOnReselect v s).regs with cmd2 := v }
        events := s.events ++ selectEvents s.regs.cmd2 v } := by
  have hrises : (v.getLsbD 4 && !s.regs.cmd2.getLsbD 4) = true ↔ v.getLsbD 4 = true ∧ s.regs.cmd2.getLsbD 4 = false := by
    rw [Bool.and_eq_true, Bool.not_eq_true']
  rw [← (commitOnReselect_ports v s).events, selectDrive, selectEvents]
  simp only [hrises]
  split
  all_goals
    simp only [State.emit, State.withRegs, List.append_assoc]
    rfl

/-! ### A command and the write of its byte -/

theorem commandOf_external (v : Byte) : (commandOf v).external = true := by
  unfold commandOf
  split_ifs <;> rfl

/-- The write of a byte does what the command that the byte selects does (45_bus_ops.md R250). -/
theorem ownPart_commandOf (v : Byte) : ownPart (commandOf v) = ownPart (.wrCmd0 v) := by
  funext s
  simp only [ownPart, startCommand, commandOf]
  split_ifs <;> rfl

/-- And uses mode 2 where it does. -/
theorem readsHead_commandOf (v : Byte) : readsHead (commandOf v) = selects 0x03#8 0x02#8 v := by
  unfold commandOf
  split_ifs with hidle hformat hwrite hhead
  · exact (Bool.eq_false_iff.2 (not_selects hidle (by decide))).symm
  · exact (Bool.eq_false_iff.2 (not_selects hformat (by decide))).symm
  · exact (Bool.eq_false_iff.2 (not_selects hwrite (by decide))).symm
  · exact hhead.symm
  · exact (Bool.eq_false_iff.2 hhead).symm

theorem exec_commandOf (v : Byte) (s : State) : exec (commandOf v) s = exec (.wrCmd0 v) s := by
  rw [exec_external_eq (commandOf_external v), exec_external_eq (i := .wrCmd0 v) rfl, readsHead_commandOf, ownPart_commandOf]
  rfl

theorem startCommand_cmd0 (v : Byte) (s : State) : (startCommand v s).regs.cmd0 = v := by
  unfold startCommand
  split
  · rw [idleCommand_eq]
  · split
    · rw [formatCommand_eq]
    · rw [searchCommand_eq]

/-- Mode 0 is idle with the write gate, bit 2, off, and format with it on (30_encoding.md R103). -/
theorem selects_idle_iff (v : Byte) :
    selects 0x07#8 0x00#8 v = true ↔ v &&& 0x03#8 = 0x00#8 ∧ v.getLsbD 2 = false := by
  rw [← selects_iff, selects_seven_iff, selects_three_iff, BitVec.getLsbD, Nat.testBit_eq_decide_div_mod_eq]
  simp only [BitVec.toNat_ofNat, decide_eq_false_iff_not]
  omega

theorem selects_format_iff (v : Byte) :
    selects 0x07#8 0x04#8 v = true ↔ v &&& 0x03#8 = 0x00#8 ∧ v.getLsbD 2 = true := by
  rw [← selects_iff, selects_seven_iff, selects_three_iff, BitVec.getLsbD, Nat.testBit_eq_decide_div_mod_eq]
  simp only [BitVec.toNat_ofNat, decide_eq_true_eq]
  omega

/-- status0 after a command, by its mode and write gate (43_sequencer.md R184 to R188). -/
theorem startCommand_stat0 (v : Byte) (s : State) :
    (startCommand v s).regs.stat0 =
      if v &&& 0x03#8 ≠ 0x00#8 then 0x00#8 else if v.getLsbD 2 = true then 0x82#8 else (s.regs.stat0 &&& 0x04#8) ||| 0x08#8 := by
  rw [startCommand]
  by_cases hmode : v &&& 0x03#8 = 0x00#8
  · cases hgate : v.getLsbD 2 with
    | false =>
      rw [if_pos ((selects_idle_iff v).2 ⟨hmode, hgate⟩), idleCommand_eq, flushWrite_regs]
      simp [hmode]
    | true =>
      rw [if_neg (by simp [selects_idle_iff, hgate]), if_pos ((selects_format_iff v).2 ⟨hmode, hgate⟩), formatCommand_eq]
      simp [hmode]
  · rw [if_neg (by simp [selects_idle_iff, hmode]), if_neg (by simp [selects_format_iff, hmode]), searchCommand_eq, if_pos hmode]

/-! ### The statements -/

/-- An operation that does not use mode 2 answers in every build, at every tick not before `last_sync`. -/
theorem exec_of_not_readsHead {i : Instr} {s : State} (hx : i.external = true) (hi : readsHead i = false)
    (hs : s.cur.lastSync ≤ s.now) : exec i s = .next (ownPart i (sync s.now s)) :=
  exec_external_of_le hx (by simp [hi]) hs

/-- Settles O7: the read answers `stat0` after `Sync`, which touches no reserved bit; at reset there is nothing to bring up to
date. -/
theorem readingStatus0ReturnsItUnchanged : Obligations.ReadingStatus0ReturnsItUnchanged := by
  intro s hs u
  refine ⟨exec_of_not_readsHead rfl rfl hs, fun hreserved => ?_, ?_⟩
  · exact (sync_reservedFlags s.now s).trans hreserved
  · have hsync : sync State.reset.now State.reset = State.reset := sync_of_le (le_refl 0)
    rw [exec_of_not_readsHead rfl rfl (le_refl 0), hsync]
    rfl

/-- Settles O9: `consumeData` clears the bits of 0x82 and answers the data register. -/
theorem readingDataAcknowledgesTheByte : Obligations.ReadingDataAcknowledgesTheByte := by
  intro s hs u
  rw [exec_of_not_readsHead rfl rfl hs, ownPart, consumeData_eq]

/-- Settles O10: the byte is the free one of the counter, which moves on. -/
theorem reservedReadsAnswerSomeByte : Obligations.ReservedReadsAnswerSomeByte := by
  intro s hs u
  refine ⟨⟨Config.freeByte u.freeCount, u.freeCount + 1, ?_⟩, fun offset => ⟨Config.freeByte u.freeCount, u.freeCount + 1, ?_⟩⟩
  · exact exec_of_not_readsHead (i := .rdRsvd2) rfl rfl hs
  · exact exec_of_not_readsHead (i := .rdRsvd4 offset) rfl rfl hs

/-- Settles O11: the four own parts are one register write each. -/
theorem selectorWritesStoreTheByteOnly : Obligations.SelectorWritesStoreTheByteOnly := by
  intro s v hs u
  refine ⟨?_, ?_, ?_, ?_⟩
  · exact exec_of_not_readsHead (i := .wrCmd1 v) rfl rfl hs
  · exact exec_of_not_readsHead (i := .wrClk v) rfl rfl hs
  · exact exec_of_not_readsHead (i := .wrSect v) rfl rfl hs
  · exact exec_of_not_readsHead (i := .wrTrck v) rfl rfl hs

/-- Settles O12: a register write, and the acknowledgement that RD_DATA makes too. -/
theorem writingDataSuppliesAByte : Obligations.WritingDataSuppliesAByte := by
  intro s v hs u
  rw [exec_of_not_readsHead rfl rfl hs, ownPart, writeRegs_eq, State.byteAnswered_eq]
  rfl

/-- Settles O13: `SetClock` of the byte's nominal period, by parameters that `Sync` keeps. -/
theorem writingCellReprogramsTheClock : Obligations.WritingCellReprogramsTheClock := by
  intro s v hs u p
  have hperiod : cellPeriod u.cfg v = p := by rw [(sync_ports s.now s).cfg, cellPeriod]
  rw [exec_of_not_readsHead rfl rfl hs, ownPart, commandCell_eq, hperiod]
  rfl

/-- Settles O14: the commit to the old drive, then the byte and its events. -/
theorem writingCmd2EmitsTheDriveEvents : Obligations.WritingCmd2EmitsTheDriveEvents := by
  intro s v hs u drive w
  have hcommit : commitOnReselect v u = w := commitOnReselect_eq_ite v u
  rw [exec_of_not_readsHead rfl rfl hs, ownPart, selectDrive_eq, hcommit, selectEvents, ← List.append_assoc]
  rfl

/-- Settles O15: the command of the byte and the write of the byte are the same operation; a build that loops on read-head refuses
neither. -/
theorem writingCmd0IssuesTheSelectedCommand : Obligations.WritingCmd0IssuesTheSelectedCommand := by
  intro s v hs hloop
  have hnotRefused : ¬ (readsHead (.wrCmd0 v) = true ∧ s.cfg.readHead = .refuse) := by
    rintro ⟨hhead, hrefuse⟩
    rw [hloop (selects_iff.1 hhead)] at hrefuse
    cases hrefuse
  have hwrite : exec (.wrCmd0 v) s = .next ((startCommand v (sync s.now s)).answer .nothing) :=
    exec_external_of_le rfl hnotRefused hs
  exact ⟨commandOf v, _, decode_cmd0 v, hwrite, (exec_commandOf v s).trans hwrite, startCommand_cmd0 v _, startCommand_stat0 v _⟩

end Sys2Proof.Machine

/-! PROOF. Reset on a running block (70_reset_and_hazards.md R320): `Sync`, the flush, then the table of reset values. -/

namespace Sys2Proof.Machine

/-- RESET leaves the parameters, and what has passed the ports but the last answer, as the flush left them (10_state.md R61). -/
theorem clearState_answer_eq (t : Nat) (s : State) :
    (clearState t s).answer .nothing =
      { s with
        regs := State.reset.regs, seq := State.reset.seq, pll := State.reset.pll, codec := State.reset.codec
        tx := State.reset.tx, wbuf := State.reset.wbuf, cur := { lastSync := t, windowStart := t }
        out := .nothing } := rfl

/-- Settles O20: power-on writes the table by definition; a reset is `clearState` of the flushed state, at the tick that `Sync`
keeps. -/
theorem resetFlushesThenClears : Obligations.ResetFlushesThenClears := by
  refine ⟨fun cfg t0 => ⟨rfl, rfl, rfl, rfl, rfl, rfl, rfl⟩, ?_⟩
  intro s hs u f
  have hflush : flushWrite u = f := flushWrite_eq_ite u
  have hnow : u.now = s.now := (sync_ports s.now s).now
  rw [exec_of_not_readsHead rfl rfl hs, ownPart, hflush, hnow, clearState_answer_eq]

end Sys2Proof.Machine
